-- ==== Sys2Proof/Word.lean ====
section
/-! DEFINITION. The words of the block: 00_scope.md R12 (byte, u32, byte string). -/

namespace Sys2Proof

/-- A byte: an unsigned 8-bit value (00_scope.md R12). -/
abbrev Byte := BitVec 8

/-- `u32`: an unsigned 32-bit value (00_scope.md R12). -/
abbrev U32 := BitVec 32

end Sys2Proof
end

