-- ==== Sys2Proof/Config.lean ====
section
/-! DEFINITION. The configuration: fixed for the life of the block (10_state.md R30), the parameters of
00_scope.md R9 (with the source's values as defaults) and R10 (open), and the constraints of R11. -/

namespace Sys2Proof

/-- The parameters of 00_scope.md R9 and R10. A field of R9 has the source's value as its default; a field of R10
has none, but for `filler` (default 0x00, decision D6). -/
structure Config where
  /-- `CHIP_SIZE`: bytes of flash. -/
  chipSize : Nat := 524288
  /-- `PAGE_SIZE`: programming granularity. -/
  pageSize : Nat := 256
  /-- `SECTOR_SIZE`: smallest erase unit. -/
  sectorSize : Nat := 4096
  /-- `BLOCK32_SIZE`: 32K block erase unit. -/
  block32Size : Nat := 32768
  /-- `BLOCK64_SIZE`: 64K block erase unit. -/
  block64Size : Nat := 65536
  /-- `EXP_MFR`: expected manufacturer code, checked by INIT. -/
  expMfr : Byte := 0x9D
  /-- `EXP_TYPE`: expected memory type, not checked (90_conflicts.md C3). -/
  expType : Byte := 0x60
  /-- `EXP_CAP`: expected capacity code, checked by INIT. -/
  expCap : Byte := 0x13
  /-- `UID_BYTES`: length of the factory unique id. Nothing reads it: the register `UID` and the frame 0x4B have the
  fixed length 8 (log 27). -/
  uidBytes : Nat := 8
  /-- `T_READY_MS`: budget of every WAIT_READY phase. -/
  tReadyMs : U32
  /-- `T_PP_MS`: WAIT_COMPLETE budget after Page Program. -/
  tPpMs : U32
  /-- `T_SE_MS`: WAIT_COMPLETE budget after Sector Erase. -/
  tSeMs : U32
  /-- `T_BE32_MS`: WAIT_COMPLETE budget after Block Erase 32K. -/
  tBe32Ms : U32
  /-- `T_BE64_MS`: WAIT_COMPLETE budget after Block Erase 64K. -/
  tBe64Ms : U32
  /-- `T_CE_MS`: WAIT_COMPLETE budget after Chip Erase. -/
  tCeMs : U32
  /-- `POLL_MS`: sleep between two status polls. -/
  pollMs : U32
  /-- `FILLER`: value of every dummy or receive-phase transmit byte. -/
  filler : Byte := 0x00
deriving DecidableEq, Repr

/-- `ADDR_BYTES`: address bytes on the wire. A constant, not a field: "no other address width" (R3); log 10. -/
def Config.addrBytes : Nat := 3

/-- The constraints of 00_scope.md R11 (a), (b), (c): they hold of the configuration at reset, no step changes the
configuration, and they are a premise where a statement about every state needs them. R11 (d) asks for no
constraint: sizes need not be powers of two. -/
abbrev Config.Valid (c : Config) : Prop :=
  1 ≤ c.pageSize ∧ 1 ≤ c.sectorSize ∧ 1 ≤ c.block32Size ∧ 1 ≤ c.block64Size ∧ c.chipSize ≤ 2 ^ 24 ∧
  c.tSeMs < c.tBe32Ms ∧ c.tBe32Ms < c.tBe64Ms ∧
  c.tReadyMs ≤ c.tCeMs ∧ c.tPpMs ≤ c.tCeMs ∧ c.tSeMs ≤ c.tCeMs ∧ c.tBe32Ms ≤ c.tCeMs ∧ c.tBe64Ms ≤ c.tCeMs

/-! The open parameters of R10 in the configuration that reset carries: values no source gives, so constants
without a body, used where together they meet R11 (log 9). DESIGN CHOICE: free values. -/

/-- Free value for `T_READY_MS` (R10, decision D12). -/
opaque Config.openReadyMs : U32
/-- Free value for `T_PP_MS` (R10, decision D12). -/
opaque Config.openPpMs : U32
/-- Free value for `T_SE_MS` (R10, decision D12). -/
opaque Config.openSeMs : U32
/-- Free value for `T_BE32_MS` (R10, decision D12). -/
opaque Config.openBe32Ms : U32
/-- Free value for `T_BE64_MS` (R10, decision D12). -/
opaque Config.openBe64Ms : U32
/-- Free value for `T_CE_MS` (R10, decision D12). -/
opaque Config.openCeMs : U32
/-- Free value for `POLL_MS` (R10, decision D12). -/
opaque Config.openPollMs : U32

/-- R9's defaults, D6's default filler, and the free values for R10 with nothing asked of them. -/
def Config.unconstrained : Config :=
  { tReadyMs := Config.openReadyMs, tPpMs := Config.openPpMs, tSeMs := Config.openSeMs,
    tBe32Ms := Config.openBe32Ms, tBe64Ms := Config.openBe64Ms, tCeMs := Config.openCeMs,
    pollMs := Config.openPollMs }

/-- A free value that keeps R11: `free` where the seven free values together meet it, else `least`, one of the
shortest times that do. Every configuration R11 allows is a value of it, and none other is (log 9). -/
def Config.constrained (free least : U32) : U32 := if Config.unconstrained.Valid then free else least

/-- The configuration the reset state carries: as `unconstrained`, with R11 assumed of it, as R11 asks. -/
def Config.initial : Config :=
  { tReadyMs := Config.constrained Config.openReadyMs 0, tPpMs := Config.constrained Config.openPpMs 0
    tSeMs := Config.constrained Config.openSeMs 0, tBe32Ms := Config.constrained Config.openBe32Ms 1
    tBe64Ms := Config.constrained Config.openBe64Ms 2, tCeMs := Config.constrained Config.openCeMs 2
    pollMs := Config.openPollMs }

end Sys2Proof
end

