-- ==== Sys2Proof/Machine/Flags.lean ====
section
/-! DEFINITION. The flags the block reads (10_state.md R47, R48; 30_encoding.md R95) and the timeout comparison
(41_sequencer.md R155). -/

namespace Sys2Proof.Machine

/-- BUSY: status bit 0, "operation in progress". -/
def busyFlag (sr : Byte) : Bool := sr.getLsbD 0

/-- WEL: status bit 1, the write-enable latch. No operation reads it (decision D19). -/
def welFlag (sr : Byte) : Bool := sr.getLsbD 1

/-- `(now - t0) mod 2^32`: elapsed milliseconds, one wrap of the counter included (R155, decision D11). -/
def elapsed (t0 now : U32) : U32 := now - t0

/-- The timeout check of R154: `((now - T0) mod 2^32) >= TBUDGET`, unsigned. -/
def timedOut (t0 budget now : U32) : Bool := decide (budget ≤ elapsed t0 now)

end Sys2Proof.Machine
end

