-- ==== Sys2Proof/Syntax.lean ====
section
/-! DEFINITION. The instructions: one constructor per row of spec/opcode_table.json. Twelve wire frames
(30_encoding.md R97), ten host requests and two rows of reserved request codes (R100, R101). -/

namespace Sys2Proof

/-- The operands of a request: every field of the record of 30_encoding.md R102 but `OP`. A request carries all
of them, also those its operation ignores, since acceptance latches the whole record (41_sequencer.md R150). -/
structure Args where
  /-- `ADDR`: a flash byte address. -/
  addr : U32
  /-- `LEN`: a byte count. -/
  len : U32
  /-- `BUFP`: the caller supplied a buffer. -/
  bufp : Bool
  /-- `WDATA`: the write data. -/
  wdata : List Byte
deriving DecidableEq, Repr

/-- A request record (30_encoding.md R102). -/
structure Request extends Args where
  /-- `OP`: the request code of R100. -/
  op : BitVec 4
deriving DecidableEq, Repr

/-- The operation a request code names (30_encoding.md R100, R101). -/
inductive Op where
  | init | read | fread | wpage | write | esect | eb32 | eb64 | echip | info | reserved
deriving DecidableEq, Repr

/-- One constructor per row of spec/opcode_table.json, in the table's order. `a` is the 24-bit address field
(30_encoding.md R93), `n` the receive count, `q` the operands of a request. -/
inductive Instr where
  /-- Write Enable, 0x06 (40_encoder.md R122). -/
  | wren
  /-- Read Status, 0x05 (R123). -/
  | rdsr
  /-- Read Data, 0x03 (R124): the wire frame, table mnemonic READ. -/
  | read (a : BitVec 24) (n : Nat)
  /-- Fast Read, 0x0B (R125). -/
  | fastRead (a : BitVec 24) (n : Nat)
  /-- Page Program, 0x02 (R126). -/
  | pp (a : BitVec 24) (payload : List Byte)
  /-- Sector Erase, 0x20 (R127). -/
  | se (a : BitVec 24)
  /-- Block Erase 32K, 0x52 (R128). -/
  | be32 (a : BitVec 24)
  /-- Block Erase 64K, 0xD8 (R129). -/
  | be64 (a : BitVec 24)
  /-- Chip Erase, 0xC7 (R130). -/
  | ce
  /-- Read JEDEC ID, 0x9F (R131). -/
  | rdjdid
  /-- Read Device ID, 0x90 (R132). -/
  | rdid
  /-- Read Unique ID, 0x4B (R133). -/
  | rduid
  /-- Initialize, request 0x0 (42_operations.md R181). -/
  | reqInit (q : Args)
  /-- Read, request 0x1 (R182), table mnemonic READ. -/
  | reqRead (q : Args)
  /-- Fast Read, request 0x2 (R183). -/
  | reqFread (q : Args)
  /-- Write Page, request 0x3 (R184). -/
  | reqWpage (q : Args)
  /-- Write (multi-page), request 0x4 (R185). -/
  | reqWrite (q : Args)
  /-- Erase Sector, request 0x5 (R186). -/
  | reqEsect (q : Args)
  /-- Erase Block32K, request 0x6 (R187). -/
  | reqEb32 (q : Args)
  /-- Erase Block64K, request 0x7 (R188). -/
  | reqEb64 (q : Args)
  /-- Erase Chip, request 0x8 (R189). -/
  | reqEchip (q : Args)
  /-- Get Device Info, request 0x9 (R190). -/
  | reqInfo (q : Args)
  /-- Reserved codes 0xA and 0xB; `b` is bit 0 of the code (R191). -/
  | reservedAB (b : BitVec 1) (q : Args)
  /-- Reserved codes 0xC to 0xF; `c` is bits 1 and 0 of the code (R191). -/
  | reservedCF (c : BitVec 2) (q : Args)
deriving DecidableEq, Repr

/-- What may be offered to the block: a request record, or the bytes of one wire frame to be run by itself (log 4). -/
inductive Offer where
  | request (r : Request)
  | frame (bytes : List Byte)
deriving DecidableEq, Repr

/-- Why a frame is no frame of 30_encoding.md R91. -/
inductive Reject where
  /-- A window with no byte holds no opcode (R90). -/
  | emptyFrame
  /-- An opcode other than the twelve (R99). -/
  | unknownOpcode (op : Byte)
  /-- A length that R98 does not give the opcode. -/
  | wrongLength (op : Byte)
  /-- A 0x90 frame whose three address bytes are not zero (R93, R132). -/
  | wrongAddress (op : Byte)
deriving DecidableEq, Repr

end Sys2Proof
end

