-- ==== Sys2Proof/Machine/Encoder.lean ====
section
/-! DEFINITION. The Command Encoder: the frames and the response decoders of 40_encoder.md R121 to R137, total and
pure (R120). -/

namespace Sys2Proof.Machine

/-- `n` bytes of `FILLER` (30_encoding.md R104). -/
def fill (cfg : Config) (n : Nat) : List Byte := List.replicate n cfg.filler

/-- The three address bytes, big-endian: `a[23:16]`, `a[15:8]`, `a[7:0]` (30_encoding.md R93). -/
def addrBytesOf (a : BitVec 24) : List Byte :=
  [a.extractLsb' 16 8, a.extractLsb' 8 8, a.extractLsb' 0 8]

/-- `(h << 16) | (m << 8) | l`: a 24-bit value from three bytes (00_scope.md R13). -/
def concat3 (h m l : Byte) : BitVec 24 :=
  (h.setWidth 24 <<< 16) ||| (m.setWidth 24 <<< 8) ||| l.setWidth 24

/-- `addrFrame(op, a, k)` (40_encoder.md R121). Bits of `a` above bit 23 are dropped (decision D28). -/
def addrFrame (cfg : Config) (op : Byte) (a k : Nat) : List Byte :=
  op :: (addrBytesOf (BitVec.ofNat 24 a) ++ fill cfg k)

/-- R122. -/
def frameWREN : List Byte := [0x06]
/-- R123: `CMD_DUMMY(1,0)`. -/
def frameRDSR (cfg : Config) : List Byte := 0x05 :: fill cfg 1
/-- R124: the header of Read Data. -/
def frameREADhdr (cfg : Config) (a : Nat) : List Byte := addrFrame cfg 0x03 a 0
/-- R125: the header of Fast Read, one dummy byte after the address. -/
def frameFREADhdr (cfg : Config) (a : Nat) : List Byte := addrFrame cfg 0x0B a 1
/-- R124, R125: the receive phase, `N` filler bytes. -/
def frameRx (cfg : Config) (n : Nat) : List Byte := fill cfg n
/-- R126: the header of Page Program. -/
def framePPhdr (cfg : Config) (a : Nat) : List Byte := addrFrame cfg 0x02 a 0
/-- R127. -/
def frameSE (cfg : Config) (a : Nat) : List Byte := addrFrame cfg 0x20 a 0
/-- R128. -/
def frameBE32 (cfg : Config) (a : Nat) : List Byte := addrFrame cfg 0x52 a 0
/-- R129. -/
def frameBE64 (cfg : Config) (a : Nat) : List Byte := addrFrame cfg 0xD8 a 0
/-- R130. -/
def frameCE : List Byte := [0xC7]
/-- R131: `CMD_DUMMY(3,0)`. -/
def frameRDJDID (cfg : Config) : List Byte := 0x9F :: fill cfg 3
/-- R132: three zero address bytes, which do not depend on `FILLER`, and two dummies. -/
def frameRDID (cfg : Config) : List Byte := 0x90 :: (List.replicate Config.addrBytes 0x00 ++ fill cfg 2)
/-- R133: `CMD_DUMMY(4,8)`, four dummies and then the id phase of 8 bytes, in one window (30_encoding.md R91, R98).
The layout is fixed (decision D37), so `UID_BYTES` does not enter (log 27). -/
def frameRDUID (cfg : Config) : List Byte := 0x4B :: (fill cfg 4 ++ fill cfg 8)

/-- The byte at a 0-based response index (00_scope.md R12). The index is in range for every response of the
frame's length; outside it the value is never used. -/
def rxAt (rx : List Byte) (i : Nat) : Byte := rx.getD i 0

/-- `decodeStatus` (R134): `(BUSY, WEL)` from response byte 1. -/
def decodeStatus (rx : List Byte) : Bool × Bool := (busyFlag (rxAt rx 1), welFlag (rxAt rx 1))

/-- `decodeIdentity` (R135): manufacturer, memory type, capacity from response bytes 1, 2, 3. -/
def decodeIdentity (rx : List Byte) : Byte × Byte × Byte := (rxAt rx 1, rxAt rx 2, rxAt rx 3)

/-- The identity check of R135: manufacturer and capacity; the memory type is not checked. -/
def idOk (cfg : Config) (rx : List Byte) : Bool := rxAt rx 1 == cfg.expMfr && rxAt rx 3 == cfg.expCap

/-- `decodeUid` (R136): response bytes 5 to 12, in received order. -/
def decodeUid (rx : List Byte) : List Byte := (rx.drop 5).take 8

/-- `decodeDeviceId` (R137): response bytes 4 and 5. -/
def decodeDeviceId (rx : List Byte) : Byte × Byte := (rxAt rx 4, rxAt rx 5)

/-- The combined 24-bit JEDEC id `(MFR << 16) | (TYPE << 8) | CAP` (30_encoding.md R96). -/
def jedecId (mfr type cap : Byte) : BitVec 24 := concat3 mfr type cap

/-- The expected combined id of the configuration (R9, R96). -/
def expectedJedecId (cfg : Config) : BitVec 24 := jedecId cfg.expMfr cfg.expType cfg.expCap

/-- The Transfers that put a wire frame on the bus, in order: one (41_sequencer.md R151), or header and body (R152)
for Read Data, Fast Read and Page Program. A request is no wire frame and has none. -/
def wireParts (cfg : Config) : Instr → List (List Byte)
  | .wren => [frameWREN]
  | .rdsr => [frameRDSR cfg]
  | .read a n => [frameREADhdr cfg a.toNat, frameRx cfg n]
  | .fastRead a n => [frameFREADhdr cfg a.toNat, frameRx cfg n]
  | .pp a p => [framePPhdr cfg a.toNat, p]
  | .se a => [frameSE cfg a.toNat]
  | .be32 a => [frameBE32 cfg a.toNat]
  | .be64 a => [frameBE64 cfg a.toNat]
  | .ce => [frameCE]
  | .rdjdid => [frameRDJDID cfg]
  | .rdid => [frameRDID cfg]
  | .rduid => [frameRDUID cfg]
  | .reqInit _ => []
  | .reqRead _ => []
  | .reqFread _ => []
  | .reqWpage _ => []
  | .reqWrite _ => []
  | .reqEsect _ => []
  | .reqEb32 _ => []
  | .reqEb64 _ => []
  | .reqEchip _ => []
  | .reqInfo _ => []
  | .reservedAB _ _ => []
  | .reservedCF _ _ => []

/-- The Transfers the block makes for a wire frame run by itself: the frame's, but none for Read Device ID, which the
block "never puts on the bus" (R132, decision D31). -/
def issuedParts (cfg : Config) (i : Instr) : List (List Byte) := if i = .rdid then [] else wireParts cfg i

/-- The response field of a wire frame (30_encoding.md R92), from the bytes received in its last Transfer (all of
the window, or the receive phase of a two-part frame). Frames with no response field give none. -/
def responseField (rx : List Byte) : Instr → List Byte
  | .rdsr => [rxAt rx 1]
  | .read _ _ => rx
  | .fastRead _ _ => rx
  | .rdjdid => [rxAt rx 1, rxAt rx 2, rxAt rx 3]
  | .rdid => [rxAt rx 4, rxAt rx 5]
  | .rduid => decodeUid rx
  | .wren => []
  | .pp _ _ => []
  | .se _ => []
  | .be32 _ => []
  | .be64 _ => []
  | .ce => []
  | .reqInit _ => []
  | .reqRead _ => []
  | .reqFread _ => []
  | .reqWpage _ => []
  | .reqWrite _ => []
  | .reqEsect _ => []
  | .reqEb32 _ => []
  | .reqEb64 _ => []
  | .reqEchip _ => []
  | .reqInfo _ => []
  | .reservedAB _ _ => []
  | .reservedCF _ _ => []

end Sys2Proof.Machine
end

