-- ==== Sys2Proof/WellFormed.lean ====
section
/-! DEFINITION. Which instructions are well-formed: requests by 30_encoding.md R102, wire frames by R97 and
40_encoder.md R124 to R126. -/

namespace Sys2Proof

/-- R102 for WPAGE and WRITE: with `BUFP = 1`, `len(WDATA) = LEN`; otherwise `WDATA = []`. -/
def Args.writeWf (q : Args) : Bool :=
  if q.bufp then q.wdata.length == q.len.toNat else q.wdata.isEmpty

/-- R102 for every other request: `WDATA = []`. -/
def Args.plainWf (q : Args) : Bool := q.wdata.isEmpty

/-- Well-formedness. A read frame receives at least one byte (R124, R125: `N >= 1`); a Page Program frame carries
1 to PAGE_SIZE payload bytes (R97; 90_conflicts.md C5); every other wire frame is well-formed as it is. -/
def Instr.wf (cfg : Config) : Instr → Bool
  | .wren => true
  | .rdsr => true
  | .read _ n => decide (1 ≤ n)
  | .fastRead _ n => decide (1 ≤ n)
  | .pp _ p => decide (1 ≤ p.length) && decide (p.length ≤ cfg.pageSize)
  | .se _ => true
  | .be32 _ => true
  | .be64 _ => true
  | .ce => true
  | .rdjdid => true
  | .rdid => true
  | .rduid => true
  | .reqInit q => q.plainWf
  | .reqRead q => q.plainWf
  | .reqFread q => q.plainWf
  | .reqWpage q => q.writeWf
  | .reqWrite q => q.writeWf
  | .reqEsect q => q.plainWf
  | .reqEb32 q => q.plainWf
  | .reqEb64 q => q.plainWf
  | .reqEchip q => q.plainWf
  | .reqInfo q => q.plainWf
  | .reservedAB _ q => q.plainWf
  | .reservedCF _ q => q.plainWf

end Sys2Proof
end

