-- ==== Sys2Proof/Decode.lean ====
section
/-! DEFINITION. Decoding of what is offered to the block: a captured wire frame (30_encoding.md R90 to R99) and a
request record (R100 to R102), total, rejecting by name; then the encoder of the same instructions, and the host's
reading of a word of spec/opcode_table.json. -/

namespace Sys2Proof

/-- The 24-bit address from its three bytes, high byte first (30_encoding.md R93). -/
def addrOfBytes (a2 a1 a0 : Byte) : BitVec 24 := Machine.concat3 a2 a1 a0

/-- A frame that is the opcode alone. -/
def decodeBare (i : Instr) (op : Byte) (rest : List Byte) : Except Reject Instr :=
  if rest.length = 0 then .ok i else .error (.wrongLength op)

/-- A frame of the opcode and `k` ignored dummy bytes (R104: the device must ignore their value; log 20). -/
def decodeDummies (i : Instr) (k : Nat) (op : Byte) (rest : List Byte) : Except Reject Instr :=
  if rest.length = k then .ok i else .error (.wrongLength op)

/-- A frame of the opcode, the address, and what `f` makes of the address and the bytes after it. -/
def decodeAddressed (f : BitVec 24 → List Byte → Except Reject Instr) (op : Byte) :
    List Byte → Except Reject Instr
  | a2 :: a1 :: a0 :: data => f (addrOfBytes a2 a1 a0) data
  | _ => .error (.wrongLength op)

/-- An erase frame: nothing follows the address. -/
def decodeErase (mk : BitVec 24 → Instr) (op : Byte) (rest : List Byte) : Except Reject Instr :=
  decodeAddressed (fun a data => if data.length = 0 then .ok (mk a) else .error (.wrongLength op)) op rest

/-- Fast Read: one dummy byte, then the receive phase. -/
def decodeFastRead (op : Byte) (rest : List Byte) : Except Reject Instr :=
  decodeAddressed (fun a data =>
    match data with
    | _ :: body => .ok (.fastRead a body.length)
    | [] => .error (.wrongLength op)) op rest

/-- Read Device ID: three zero address bytes and two dummies (R132). -/
def decodeRdid (op : Byte) (rest : List Byte) : Except Reject Instr :=
  decodeAddressed (fun a data =>
    if data.length = 2 then if a = 0 then .ok .rdid else .error (.wrongAddress op)
    else .error (.wrongLength op)) op rest

/-- Decoding of one chip-select window's bytes by the opcode map of R97 and the lengths of R98, which the opcode
alone gives but for the data phase of 0x03, 0x0B and 0x02. A value other than the twelve opcodes is refused (R99). -/
def decodeFrame : List Byte → Except Reject Instr
  | [] => .error .emptyFrame
  | op :: rest =>
    if op = 0x06 then decodeBare .wren op rest
    else if op = 0x05 then decodeDummies .rdsr 1 op rest
    else if op = 0x03 then decodeAddressed (fun a data => .ok (.read a data.length)) op rest
    else if op = 0x0B then decodeFastRead op rest
    else if op = 0x02 then decodeAddressed (fun a data => .ok (.pp a data)) op rest
    else if op = 0x20 then decodeErase .se op rest
    else if op = 0x52 then decodeErase .be32 op rest
    else if op = 0xD8 then decodeErase .be64 op rest
    else if op = 0xC7 then decodeBare .ce op rest
    else if op = 0x9F then decodeDummies .rdjdid 3 op rest
    else if op = 0x90 then decodeRdid op rest
    else if op = 0x4B then decodeDummies .rduid 12 op rest
    else .error (.unknownOpcode op)

/-- Decoding of a request record by the code table of R100; every 4-bit code has a row. -/
def decodeRequest (r : Request) : Instr :=
  match r.op.toNat with
  | 0 => .reqInit r.toArgs
  | 1 => .reqRead r.toArgs
  | 2 => .reqFread r.toArgs
  | 3 => .reqWpage r.toArgs
  | 4 => .reqWrite r.toArgs
  | 5 => .reqEsect r.toArgs
  | 6 => .reqEb32 r.toArgs
  | 7 => .reqEb64 r.toArgs
  | 8 => .reqEchip r.toArgs
  | 9 => .reqInfo r.toArgs
  | 10 => .reservedAB 0 r.toArgs
  | 11 => .reservedAB 1 r.toArgs
  | _ => .reservedCF (r.op.extractLsb' 0 2) r.toArgs

/-- Decoding of an offer. -/
def decode : Offer → Except Reject Instr
  | .request r => .ok (decodeRequest r)
  | .frame bytes => decodeFrame bytes

/-! The encoder, from the same tables: R91, R97 for the wire, R100 for the requests. -/

/-- The bytes of a wire frame, all of one window: its Transfers one after the other (41_sequencer.md R152: "The
bytes on the wire are `hdr ++ body` in one window"). -/
def encodeFrame (cfg : Config) (i : Instr) : List Byte := (Machine.wireParts cfg i).flatten

/-- The encoding of an instruction: what is to be offered so that the block runs it. -/
def encode (cfg : Config) : Instr → Offer
  | .reqInit q => .request { toArgs := q, op := 0x0 }
  | .reqRead q => .request { toArgs := q, op := 0x1 }
  | .reqFread q => .request { toArgs := q, op := 0x2 }
  | .reqWpage q => .request { toArgs := q, op := 0x3 }
  | .reqWrite q => .request { toArgs := q, op := 0x4 }
  | .reqEsect q => .request { toArgs := q, op := 0x5 }
  | .reqEb32 q => .request { toArgs := q, op := 0x6 }
  | .reqEb64 q => .request { toArgs := q, op := 0x7 }
  | .reqEchip q => .request { toArgs := q, op := 0x8 }
  | .reqInfo q => .request { toArgs := q, op := 0x9 }
  | .reservedAB b q => .request { toArgs := q, op := 0b101#3 ++ b }
  | .reservedCF c q => .request { toArgs := q, op := 0b11#2 ++ c }
  | .wren => .frame (encodeFrame cfg .wren)
  | .rdsr => .frame (encodeFrame cfg .rdsr)
  | .read a n => .frame (encodeFrame cfg (.read a n))
  | .fastRead a n => .frame (encodeFrame cfg (.fastRead a n))
  | .pp a p => .frame (encodeFrame cfg (.pp a p))
  | .se a => .frame (encodeFrame cfg (.se a))
  | .be32 a => .frame (encodeFrame cfg (.be32 a))
  | .be64 a => .frame (encodeFrame cfg (.be64 a))
  | .ce => .frame (encodeFrame cfg .ce)
  | .rdjdid => .frame (encodeFrame cfg .rdjdid)
  | .rdid => .frame (encodeFrame cfg .rdid)
  | .rduid => .frame (encodeFrame cfg .rduid)

/-- The frame length of an opcode whose frames all have one length (R98). -/
def fixedLength (op : Byte) : Option Nat :=
  if op = 0x06 ∨ op = 0xC7 then some 1
  else if op = 0x05 then some 2
  else if op = 0x9F ∨ op = 0x20 ∨ op = 0x52 ∨ op = 0xD8 then some 4
  else if op = 0x90 then some 6
  else if op = 0x4B then some 13
  else none

/-- The shortest well-formed frame of an opcode with a data phase: `4 + N`, `5 + N`, `4 + N` with `N = 1` (R98). -/
def shortestDataFrame (op : Byte) : Option Nat :=
  if op = 0x03 then some 5 else if op = 0x0B then some 6 else if op = 0x02 then some 5 else none

/-- The first `n` bytes of a word, bits 7 to 0 first. -/
def bytesOfWord (n w : Nat) : List Byte := (List.range n).map fun i => BitVec.ofNat 8 (w / 256 ^ i)

/-- The request a table word stands for: its code in bits 3 to 0 and every operand 0 (30_encoding.md R100). -/
def requestOfWord (w : Nat) : Request :=
  { addr := 0, len := 0, bufp := false, wdata := [], op := BitVec.ofNat 4 w }

/-- What a word of spec/opcode_table.json stands for. The table numbers wire rows (8 bits) and request rows (4 bits)
over the same low bits, so a word can fit two rows: the wire row, which fixes more bits, wins. A word whose low byte
is none of the twelve opcodes fits a request row alone, which looks at 4 bits only: it is read as the request of its
low 4 bits, whatever stands above them (0x99 is read as INFO), and is not refused as the captured frame of R99 would
be. Both readings of a table word are a DESIGN CHOICE (log 6). A frame is laid out byte 0 first, with zeros above
`nbits` up to the length its opcode has. -/
def offerOfWord (nbits w : Nat) : Offer :=
  let v := w % 2 ^ nbits
  let op : Byte := BitVec.ofNat 8 v
  if nbits < 8 then .request (requestOfWord v)
  else match fixedLength op with
    | some n => .frame (bytesOfWord n v)
    | none =>
      match shortestDataFrame op with
      | some n => .frame (bytesOfWord (max n (nbits / 8)) v)
      | none => .request (requestOfWord v)

/-- The instruction the decoder reads from a table word. -/
def decodeTableWord (nbits w : Nat) : Option Instr :=
  match decode (offerOfWord nbits w) with
  | .ok i => some i
  | .error _ => none

end Sys2Proof
end

