-- ==== Sys2Proof/Machine/State.lean ====
section
/-! DEFINITION. The state: the registers of 10_state.md R31 to R44 and R51, the configuration, and the model's own
fields (position within a phase, the host's side of the interface, the event trace); the state after reset; and the
ways a step can stop. -/

namespace Sys2Proof.Machine

/-- `PHASE`: the sequencer's control state, one of eleven values (10_state.md R36). -/
inductive Phase where
  | idle | validate | split | waitReady | writeEnable | commandIssue | waitComplete
  | idRead | uidRead | done | failed
deriving DecidableEq, Repr

/-- The error causes of 60_exceptions.md R231; code 7 is reserved and has no constructor. -/
inductive Cause where
  | none | invalidArgument | outOfRange | timeout | transportFault | notInitialized | identityMismatch
deriving DecidableEq, Repr

/-- `RESULT` of a response: Ok or Error (60_exceptions.md R230). -/
inductive Result where
  | ok | error
deriving DecidableEq, Repr

/-- A response record (30_encoding.md R102). -/
structure Response where
  result : Result
  cause : Cause
  rdata : List Byte
  info : List Byte
deriving DecidableEq, Repr

/-- The interface events of 00_scope.md R8, in whose order the block is observed. -/
inductive Event where
  /-- A request is accepted (41_sequencer.md R150). -/
  | accept (r : Request)
  /-- A wire frame offered by itself is accepted (the model's own event, log 4). -/
  | acceptFrame (i : Instr)
  /-- `Select(b)` (60_exceptions.md R240). -/
  | select (b : Bool)
  /-- `Transfer(tx)` and what it returned: the received bytes, or none for `fault` (R239). -/
  | transfer (tx : List Byte) (rx : Option (List Byte))
  /-- `Millis()` and its reading (R241). -/
  | millis (now : U32)
  /-- `Sleep(ms)` (R242). -/
  | sleep (ms : U32)
  /-- A response is emitted (41_sequencer.md R161, R162). -/
  | respond (r : Response)
deriving DecidableEq, Repr

/-- What the transport answers to one `Transfer`: `ok(rx)` or `fault` (60_exceptions.md R239). -/
inductive XferAnswer where
  | ok (rx : List Byte)
  | fault
deriving DecidableEq, Repr

/-- How far the procedure of the current phase has come (41_sequencer.md R151, R152, R154): the place between two
interface events. The model's own (log 3). -/
inductive Pos where
  /-- At the phase's first action. -/
  | start
  /-- A window is open; these Transfers are still to be made. -/
  | sending (parts : List (List Byte))
  /-- The window's last Transfer returned this; `Select(false)` comes next. -/
  | closing (rx : Option (List Byte))
  /-- In a wait: the next poll's `Select(true)` comes next. -/
  | poll
  /-- In a wait: the poll found BUSY = 1; `Millis()` comes next. -/
  | busy
  /-- In a wait: the budget has not elapsed; `Sleep(POLL_MS)` comes next. -/
  | nap
deriving DecidableEq, Repr

/-- A range of flash bytes: `size` bytes from `lo`. -/
structure Span where
  lo : Nat
  size : Nat
deriving DecidableEq, Repr

/-- The state. The first group is the spec's (10_state.md R30), the second the model's own. -/
structure State where
  /-- `INIT` (R31). -/
  init : Bool
  /-- `ID_MFR` (R32). -/
  idMfr : Byte
  /-- `ID_TYPE` (R32). -/
  idType : Byte
  /-- `ID_CAP` (R32). -/
  idCap : Byte
  /-- `UID` (R33). -/
  uid : List Byte
  /-- `CS` (R34). -/
  cs : Bool
  /-- `PHASE` (R36). -/
  phase : Phase
  /-- `REQ` (R37). -/
  req : Request
  /-- `ADDR` (R38). -/
  addr : U32
  /-- `LEN` (R39). -/
  len : U32
  /-- `REM` (R40). -/
  rem : U32
  /-- `OFF` (R41). -/
  off : U32
  /-- `T0` (R42). -/
  t0 : U32
  /-- `TBUDGET` (R42). -/
  tbudget : U32
  /-- `SR` (R43). -/
  sr : Byte
  /-- `CAUSE` (R44). -/
  cause : Cause
  /-- `RDATA` (R51). -/
  rdata : List Byte
  /-- `INFO` (R51). -/
  info : List Byte
  /-- The configuration, which no step changes (R30; log 9). -/
  cfg : Config
  /-- Place within the phase's procedure (log 3). -/
  pos : Pos
  /-- The wire frame being run by itself, if any (log 4). -/
  job : Option Instr
  /-- Response field of the last wire frame that was run by itself (log 5). -/
  frameRx : List Byte
  /-- The transmitted bytes of the last wire frame that was run, or only built, by itself (log 5). -/
  frameTx : List Byte
  /-- Offered by the host, not yet accepted (41_sequencer.md R150), oldest first: that the oldest is accepted first is
  a DESIGN CHOICE (log 28). -/
  inbox : List Offer
  /-- The transport's answers to the coming Transfers (log 1). -/
  xfers : List XferAnswer
  /-- The readings of the coming `Millis()` calls (log 1). -/
  millis : List U32
  /-- Another block's window is open on the shared bus (60_exceptions.md R245; log 13). -/
  foreignWindow : Bool
  /-- The host asserts reset (70_reset_and_hazards.md R261; log 14). -/
  resetLine : Bool
  /-- The block is taken one interface event at a time (00_scope.md R8), also from IDLE; when it is not, a step from
  IDLE goes on to the response or to the first missing answer of the host. Set from outside only (log 3). -/
  byEvents : Bool
  /-- The interface events so far, oldest first. -/
  trace : List Event
  /-- Flash ranges whose contents are unknown (20_memory.md R73; log 11). -/
  unknownFlash : List Span
deriving DecidableEq, Repr

/-- The block after reset (70_reset_and_hazards.md R260): IDLE, not initialized, chip-select deasserted with one
`Select(false)` driven, no cause, empty response latch. The registers R260 leaves unspecified hold zeros: DESIGN
CHOICE, unsafe (log 8). The host has offered nothing and answered nothing. -/
def State.reset : State :=
  { init := false
    idMfr := 0
    idType := 0
    idCap := 0
    uid := List.replicate 8 0
    cs := false
    phase := .idle
    req := { addr := 0, len := 0, bufp := false, wdata := [], op := 0 }
    addr := 0
    len := 0
    rem := 0
    off := 0
    t0 := 0
    tbudget := 0
    sr := 0
    cause := .none
    rdata := []
    info := []
    cfg := Config.initial
    pos := .start
    job := none
    frameRx := []
    frameTx := []
    inbox := []
    xfers := []
    millis := []
    foreignWindow := false
    resetLine := false
    byEvents := true
    trace := [.select false]
    unknownFlash := [] }

/-- How a step can stop with a fault. -/
inductive Fault where
  /-- Raised by the step when this block has an operation to run while another block's window is open on the shared
  bus: "treat interleaved windows as a fault" (60_exceptions.md R245). Safe: nothing is claimed of that case. -/
  | interleavedWindow
deriving DecidableEq, Repr

/-- How a step can refuse what is offered to it. -/
inductive Refusal where
  /-- Raised by exec for an instruction with no meaning yet; no arm uses it. Safe. -/
  | notModelled (mnemonic : String)
  /-- Raised by the step for a request that is not well-formed: "A model refuses a request that is not well-formed"
  (30_encoding.md R102, 41_sequencer.md R150). Safe. -/
  | malformedRequest
  /-- Raised by the step for a frame whose data phase R97 does not admit (no received or programmed byte, or a
  payload over PAGE_SIZE). Safe. -/
  | malformedFrame
  /-- Raised by the step for bytes that are no frame of R91: "must refuse it, not guess" (30_encoding.md R99). Safe. -/
  | undecodable (r : Reject)
deriving DecidableEq, Repr

end Sys2Proof.Machine
end

