-- ==== Sys2Proof/Machine/Operands.lean ====
section
/-! DEFINITION. Operands: request codes, cause codes, the boundary arithmetic of 20_memory.md R67 to R70, the input
checks of 42_operations.md R180, and the tables of frames, granularities and budgets per operation. -/

namespace Sys2Proof.Machine

/-- The operation of a request code (30_encoding.md R100, R101). -/
def opOfCode (c : BitVec 4) : Op :=
  match c.toNat with
  | 0 => .init
  | 1 => .read
  | 2 => .fread
  | 3 => .wpage
  | 4 => .write
  | 5 => .esect
  | 6 => .eb32
  | 7 => .eb64
  | 8 => .echip
  | 9 => .info
  | _ => .reserved

/-- The 3-bit cause codes of 60_exceptions.md R231. -/
def causeCode : Cause → BitVec 3
  | .none => 0
  | .invalidArgument => 1
  | .outOfRange => 2
  | .timeout => 3
  | .transportFault => 4
  | .notInitialized => 5
  | .identityMismatch => 6

/-- `RESULT = Ok` iff `CAUSE = 0` (10_state.md R47). -/
def resultOf (c : Cause) : Result := if c = .none then .ok else .error

/-- The `RESULT` bit: 0 = Ok, 1 = Error (30_encoding.md R102). -/
def resultBit : Result → BitVec 1
  | .ok => 0
  | .error => 1

/-- `rangeFits(a, n)` (20_memory.md R67), over the naturals, so no sum wraps. -/
def rangeFits (cfg : Config) (a n : Nat) : Bool := decide (a + n ≤ cfg.chipSize)

/-- `alignDown(a, g)` (R68), by division. -/
def alignDown (a g : Nat) : Nat := a / g * g

/-- `chunkLen(a, rem)` (R69). -/
def chunkLen (cfg : Config) (a rem : Nat) : Nat := min rem (cfg.pageSize - a % cfg.pageSize)

/-- `pageFits(a, n)` (R70). -/
def pageFits (cfg : Config) (a n : Nat) : Bool :=
  decide (1 ≤ n) && decide (n ≤ cfg.pageSize) && decide (a % cfg.pageSize + n ≤ cfg.pageSize)

/-- The chunks `(a_i, c_i)` of a multi-page write of `rem` bytes at `a` (42_operations.md R192), at most `fuel` of
them; with `fuel = rem` it is all of them, as a chunk has at least one byte. -/
def chunks (cfg : Config) : Nat → Nat → Nat → List (Nat × Nat)
  | 0, _, _ => []
  | fuel + 1, a, rem =>
    if rem = 0 then [] else
      let c := chunkLen cfg a rem
      (a, c) :: chunks cfg fuel (a + c) (rem - c)

/-- The first check that fails, in the order listed (decision D5; 60_exceptions.md R233 (a)). -/
def firstFailure : List (Bool × Cause) → Option Cause
  | [] => none
  | (failed, c) :: rest => if failed then some c else firstFailure rest

/-- The checks R180 shares between READ, FREAD, WPAGE and WRITE: buffer, zero length, range. -/
def dataChecks (cfg : Config) (q : Request) : List (Bool × Cause) :=
  [ (!q.bufp, .invalidArgument),
    (q.len == 0, .invalidArgument),
    (!rangeFits cfg q.addr.toNat q.len.toNat, .outOfRange) ]

/-- The page checks R180 adds for WPAGE. -/
def pageChecks (cfg : Config) (q : Request) : List (Bool × Cause) :=
  [ (decide (cfg.pageSize < q.len.toNat), .invalidArgument),
    (decide (cfg.pageSize < q.addr.toNat % cfg.pageSize + q.len.toNat), .invalidArgument) ]

/-- The check R180 makes for ESECT, EB32 and EB64. -/
def eraseChecks (cfg : Config) (q : Request) : List (Bool × Cause) :=
  [ (decide (cfg.chipSize ≤ q.addr.toNat), .outOfRange) ]

/-- The checks of an operation, in R180's order. -/
def checksOf (cfg : Config) (init : Bool) (q : Request) : List (Bool × Cause) :=
  match opOfCode q.op with
  | .init => []
  | .read => dataChecks cfg q
  | .fread => dataChecks cfg q
  | .wpage => dataChecks cfg q ++ pageChecks cfg q
  | .write => dataChecks cfg q
  | .esect => eraseChecks cfg q
  | .eb32 => eraseChecks cfg q
  | .eb64 => eraseChecks cfg q
  | .echip => []
  | .info => [ (!init, .notInitialized) ]
  | .reserved => [ (true, .invalidArgument) ]

/-- `validate(REQ)` (42_operations.md R180): the cause to raise, or none. -/
def validate (s : State) : Option Cause := firstFailure (checksOf s.cfg s.init s.req)

/-- The erase unit of an operation (41_sequencer.md R164, row 7's `g`). -/
def granularity (cfg : Config) : Op → Option Nat
  | .esect => some cfg.sectorSize
  | .eb32 => some cfg.block32Size
  | .eb64 => some cfg.block64Size
  | .init => none
  | .read => none
  | .fread => none
  | .wpage => none
  | .write => none
  | .echip => none
  | .info => none
  | .reserved => none

/-- The WAIT_COMPLETE budget of an operation (41_sequencer.md R156); READ, FREAD, INIT, INFO and the reserved codes
have no WAIT_COMPLETE. -/
def completeBudget (cfg : Config) : Op → Option U32
  | .wpage => some cfg.tPpMs
  | .write => some cfg.tPpMs
  | .esect => some cfg.tSeMs
  | .eb32 => some cfg.tBe32Ms
  | .eb64 => some cfg.tBe64Ms
  | .echip => some cfg.tCeMs
  | .init => none
  | .read => none
  | .fread => none
  | .info => none
  | .reserved => none

/-- `REQ.WDATA[OFF .. OFF + LEN - 1]`: the data of the current chunk (20_memory.md R63). -/
def chunkData (s : State) : List Byte := (s.req.wdata.drop s.off.toNat).take s.len.toNat

/-- The Transfers of the operation's command window (41_sequencer.md R160); none for an operation with no
COMMAND_ISSUE. -/
def commandParts (s : State) : List (List Byte) :=
  match opOfCode s.req.op with
  | .read => [frameREADhdr s.cfg s.addr.toNat, frameRx s.cfg s.len.toNat]
  | .fread => [frameFREADhdr s.cfg s.addr.toNat, frameRx s.cfg s.len.toNat]
  | .wpage => [framePPhdr s.cfg s.addr.toNat, s.req.wdata]
  | .write => [framePPhdr s.cfg s.addr.toNat, chunkData s]
  | .esect => [frameSE s.cfg s.addr.toNat]
  | .eb32 => [frameBE32 s.cfg s.addr.toNat]
  | .eb64 => [frameBE64 s.cfg s.addr.toNat]
  | .echip => [frameCE]
  | .init => []
  | .info => []
  | .reserved => []

/-- The flash bytes the current command frame could reach (20_memory.md R73): the page program's bytes, the chunk's
bytes, the aligned erase unit, or the whole device. -/
def commandReach (s : State) : List Span :=
  match opOfCode s.req.op with
  | .wpage => [⟨s.addr.toNat, s.len.toNat⟩]
  | .write => [⟨s.addr.toNat, s.len.toNat⟩]
  | .esect => [⟨s.addr.toNat, s.cfg.sectorSize⟩]
  | .eb32 => [⟨s.addr.toNat, s.cfg.block32Size⟩]
  | .eb64 => [⟨s.addr.toNat, s.cfg.block64Size⟩]
  | .echip => [⟨0, s.cfg.chipSize⟩]
  | .init => []
  | .read => []
  | .fread => []
  | .info => []
  | .reserved => []

/-- The same for a wire frame run by itself: the pages its payload touches or could wrap into, the aligned unit, or
the whole device (DEDUCED from R73; log 11). -/
def frameReach (cfg : Config) : Instr → List Span
  | .pp a p => [⟨alignDown a.toNat cfg.pageSize, max cfg.pageSize (a.toNat % cfg.pageSize + p.length)⟩]
  | .se a => [⟨alignDown a.toNat cfg.sectorSize, cfg.sectorSize⟩]
  | .be32 a => [⟨alignDown a.toNat cfg.block32Size, cfg.block32Size⟩]
  | .be64 a => [⟨alignDown a.toNat cfg.block64Size, cfg.block64Size⟩]
  | .ce => [⟨0, cfg.chipSize⟩]
  | .wren => []
  | .rdsr => []
  | .read _ _ => []
  | .fastRead _ _ => []
  | .rdjdid => []
  | .rdid => []
  | .rduid => []
  | .reqInit _ => []
  | .reqRead _ => []
  | .reqFread _ => []
  | .reqWpage _ => []
  | .reqWrite _ => []
  | .reqEsect _ => []
  | .reqEb32 _ => []
  | .reqEb64 _ => []
  | .reqEchip _ => []
  | .reqInfo _ => []
  | .reservedAB _ _ => []
  | .reservedCF _ _ => []

/-- What an abort in the current phase leaves unknown: nothing before the command window (20_memory.md R73: "An
Error raised before the operation's program or erase frame was sent leaves the array unchanged"), else the frame's
reach. -/
def reachNow (s : State) : List Span :=
  match s.phase with
  | .commandIssue =>
    match s.job with
    | some i => frameReach s.cfg i
    | none => commandReach s
  | .waitComplete => commandReach s
  | .idle => []
  | .validate => []
  | .split => []
  | .waitReady => []
  | .writeEnable => []
  | .idRead => []
  | .uidRead => []
  | .done => []
  | .failed => []

end Sys2Proof.Machine
end

