-- ==== Sys2Proof/Machine/Ops.lean ====
section
/-! DEFINITION. The named operations over the state: the interface primitives (60_exceptions.md R239 to R242), the
bus windows (41_sequencer.md R151, R152), the polling loop (R154), taking the error abort (60_exceptions.md R234)
and emitting the response, acceptance (R150), and reset (70_reset_and_hazards.md R260, R261). -/

namespace Sys2Proof.Machine

/-- How a procedure ends: it returns a value (`ok`), it raises an error cause (`err`), or it waits in the middle for
an answer the host has not given (`wait`; 60_exceptions.md R239). -/
inductive Run (α : Type) where
  | ok (a : α) (s : State)
  | err (c : Cause) (s : State)
  | wait (s : State)

/-- Go on after a procedure that returned; an error or a wait ends the whole (fail-fast, 41_sequencer.md R163). -/
def Run.andThen {α β : Type} (r : Run α) (f : α → State → Run β) : Run β :=
  match r with
  | .ok a s => f a s
  | .err c s => .err c s
  | .wait s => .wait s

/-- Record an interface event. -/
def State.emit (s : State) (e : Event) : State := { s with trace := s.trace ++ [e] }

/-- Move the sequencer (00_scope.md R15: `PHASE <- P`), to the first action of the phase. -/
def State.enter (s : State) (p : Phase) : State := { s with phase := p, pos := .start }

/-- Stay in the phase, at a place within its procedure. -/
def State.stay (s : State) (p : Pos) : State := { s with pos := p }

/-- `Select(b)`; `CS <- b` (60_exceptions.md R240). It cannot fail. -/
def State.select (s : State) (b : Bool) : State := { s with cs := b }.emit (.select b)

/-- `Sleep(ms)` (R242): it returns nothing, and its duration is not observed (log 21). -/
def State.sleep (s : State) (ms : U32) : State := s.emit (.sleep ms)

/-- What a Transfer of `n` bytes returns: `ok(rx)` with `len(rx) = n`, or `fault` (R239). An answer of another
length is no `ok` of the contract and counts as `fault` (log 2). -/
def XferAnswer.view (n : Nat) : XferAnswer → Option (List Byte)
  | .ok rx => if rx.length = n then some rx else none
  | .fault => none

/-- One `Transfer(tx)`, with `later` still to be sent in the same window. If the transport has not answered, the
block stays here with the window open (R239). -/
def transfer (tx : List Byte) (later : List (List Byte)) (s : State) : Run (Option (List Byte)) :=
  match s.xfers with
  | [] => .wait (s.stay (.sending (tx :: later)))
  | x :: xs =>
    .ok (x.view tx.length) ({ s with xfers := xs }.emit (.transfer tx (x.view tx.length)))

/-- `Select(false)`, and then the window's outcome: `raise Error(TransportFault)` or the received bytes. -/
def closeWindow (r : Option (List Byte)) (s : State) : Run (List Byte) :=
  match r with
  | none => .err .transportFault (s.select false)
  | some rx => .ok rx (s.select false)

/-- `Frame(tx)`, a one-transfer window (41_sequencer.md R151). -/
def frame (tx : List Byte) (s : State) : Run (List Byte) :=
  (transfer tx [] (s.select true)).andThen closeWindow

/-- `Frame2(hdr, body)`, a two-transfer window (R152). The header's response bytes are discarded. -/
def frame2 (hdr body : List Byte) (s : State) : Run (List Byte) :=
  (transfer hdr [body] (s.select true)).andThen fun r1 s1 =>
    match r1 with
    | none => closeWindow none s1
    | some _ => (transfer body [] s1).andThen closeWindow

/-- `Millis()` (60_exceptions.md R241), waiting at `p` while there is no reading. -/
def readMillis (p : Pos) (s : State) : Run U32 :=
  match s.millis with
  | [] => .wait (s.stay p)
  | v :: rest => .ok v ({ s with millis := rest }.emit (.millis v))

/-- The loop of `Wait` (41_sequencer.md R154): poll; return if BUSY is clear; else read the counter, raise Timeout if
the budget has elapsed, else sleep and poll again. `ms` is the list of readings still to come, which is
`s.millis`: each further round takes one of them. -/
def pollLoop (ms : List U32) (s : State) : Run Unit :=
  (frame (frameRDSR s.cfg) s).andThen fun rx s1 =>
    let s2 := { s1 with sr := rxAt rx 1 }
    if busyFlag s2.sr then
      match ms with
      | [] => .wait (s2.stay .busy)
      | now :: rest =>
        let s3 := { s2 with millis := rest }.emit (.millis now)
        if timedOut s3.t0 s3.tbudget now then .err .timeout s3
        else pollLoop rest (s3.sleep s3.cfg.pollMs)
    else .ok () s2

/-- `Wait(T)` once `TBUDGET` is set: `T0 <- Millis()`, then the loop (R154). -/
def waitLoop (s : State) : Run Unit :=
  (readMillis .start s).andThen fun v s1 => pollLoop s1.millis { s1 with t0 := v }

/-- Entry to `WAIT_READY`: `TBUDGET <- T_READY_MS` (R154, R156). -/
def enterReady (s : State) : State := { s with tbudget := s.cfg.tReadyMs }.enter .waitReady

/-- Entry to `WAIT_COMPLETE`: `TBUDGET` gets the operation's budget (R156). -/
def enterComplete (s : State) : State :=
  { s with tbudget := (completeBudget s.cfg (opOfCode s.req.op)).getD s.tbudget }.enter .waitComplete

/-- The `WAIT_READY` phase (R157, R158). -/
def waitReady (s : State) : Run Unit := waitLoop (enterReady s)

/-- The `WRITE_ENABLE` phase (R159): the response is discarded and WEL is not read back. -/
def writeEnable (s : State) : Run Unit :=
  (frame frameWREN (s.enter .writeEnable)).andThen fun _ s1 => .ok () s1

/-- The `WAIT_COMPLETE` phase (R157). -/
def waitComplete (s : State) : Run Unit := waitLoop (enterComplete s)

/-- Taking the error abort, `raise Error(c)` (60_exceptions.md R234): `CAUSE <- c; PHASE <- FAILED`. Nothing is
saved and nothing is rolled back (R235); the flash bytes the command could reach become unknown (20_memory.md R73). -/
def raise (c : Cause) (s : State) : State :=
  { s with cause := c, unknownFlash := s.unknownFlash ++ reachNow s }.enter .failed

/-- The `DONE` phase: emit the Ok response, `PHASE <- IDLE` (41_sequencer.md R161). -/
def respondOk (s : State) : State :=
  ({ s with job := none }.enter .idle).emit
    (.respond { result := .ok, cause := .none, rdata := s.rdata, info := s.info })

/-- The `FAILED` phase: emit the Error response with empty payloads, `PHASE <- IDLE` (R162). This is all the return
from an abort there is (60_exceptions.md R236). -/
def respondError (s : State) : State :=
  ({ s with job := none }.enter .idle).emit
    (.respond { result := .error, cause := s.cause, rdata := [], info := [] })

/-- How an operation ends: with its Ok response, with the abort and its Error response, or waiting in its phase. -/
def conclude (r : Run Unit) : Host.Outcome State Fault Refusal :=
  match r with
  | .ok _ s => .next (respondOk (s.enter .done))
  | .err c s => .next (respondError (raise c s))
  | .wait s => .next s

/-- Acceptance (41_sequencer.md R150), one step: `REQ <- request; CAUSE <- 0; RDATA <- []; INFO <- []; PHASE <-
VALIDATE`. -/
def accept (r : Request) (s : State) : State :=
  ({ s with req := r, cause := .none, rdata := [], info := [], job := none }.enter .validate).emit (.accept r)

/-- The `VALIDATE` phase: the first failing check of 42_operations.md R180 is raised. -/
def checked (s : State) : Run Unit :=
  match validate s with
  | some c => .err c s
  | none => .ok () s

/-- Serve a request: accept it, check it, run the operation's body, and conclude. While an operation is in progress a
request is not accepted and waits (R150). -/
def serve (r : Request) (body : State → Run Unit) (s : State) : Host.Outcome State Fault Refusal :=
  if s.phase = .idle then conclude ((checked (accept r s)).andThen fun _ s1 => body s1) else .next s

/-- Row 6 of 41_sequencer.md R164: `ADDR <- REQ.ADDR; LEN <- REQ.LEN`. -/
def loadAddrLen (s : State) : State := { s with addr := s.req.addr, len := s.req.len }

/-- The phase a wire frame run by itself begins in: COMMAND_ISSUE with its window, but DONE for Read Device ID, which
the block builds and "never puts on the bus" (40_encoder.md R132, decision D31). -/
def framePhase (i : Instr) : Phase := if i = .rdid then .done else .commandIssue

/-- Acceptance of a wire frame to be run by itself (log 4): as R150, with the frame as the operation's only command
and `REQ` as it was. The encoder builds the frame's bytes (40_encoder.md R120). -/
def acceptFrame (i : Instr) (s : State) : State :=
  ({ s with
      cause := .none
      rdata := []
      info := []
      frameRx := []
      frameTx := (wireParts s.cfg i).flatten
      job := some i }.enter (framePhase i)).emit (.acceptFrame i)

/-- Acceptance of what is offered, `i` being what it decodes to: the one event with which an operation begins. -/
def acceptOffer (o : Offer) (i : Instr) (s : State) : State :=
  match o with
  | .request r => accept r s
  | .frame _ => acceptFrame i s

/-- What a wire frame run by itself leaves: its response field (30_encoding.md R92), and for Read Status the status
byte in `SR` (10_state.md R43) (log 5). -/
def absorbFrame (i : Instr) (rx : List Byte) (s : State) : State :=
  { s with frameRx := responseField rx i, sr := if i = .rdsr then rxAt rx 1 else s.sr }

/-- Run a wire frame by itself: its window, its response field, a response. Not while an operation is in progress. -/
def runFrame (i : Instr) (window : State → Run (List Byte)) (s : State) : Host.Outcome State Fault Refusal :=
  if s.phase = .idle then
    conclude ((window (acceptFrame i s)).andThen fun rx s1 => .ok () (absorbFrame i rx s1))
  else .next s

/-- Build a wire frame by itself and make no window: its bytes, and a response (log 5). -/
def buildFrame (i : Instr) (s : State) : Host.Outcome State Fault Refusal :=
  if s.phase = .idle then conclude (.ok () (acceptFrame i s)) else .next s

/-- Reset (70_reset_and_hazards.md R260, R261): the state of R260, with the `Select(false)` that closes any open
window; an operation in progress is abandoned with no response. What the host holds, the configuration and the
trace are not the block's and stay; the bytes a command in progress could reach become unknown (log 12). -/
def hardReset (s : State) : State :=
  { State.reset with
    cfg := s.cfg
    inbox := s.inbox
    xfers := s.xfers
    millis := s.millis
    foreignWindow := s.foreignWindow
    byEvents := s.byEvents
    trace := s.trace ++ [.select false]
    unknownFlash := s.unknownFlash ++ reachNow s }

end Sys2Proof.Machine
end

