-- ==== Sys2Proof/Machine/Erases.lean ====
section
/-! DEFINITION. The erases with their erase-boundary validator: ESECT, EB32, EB64, ECHIP (42_operations.md R186 to
R189), in the phases of 41_sequencer.md R157. -/

namespace Sys2Proof.Machine

/-- Row 7 of 41_sequencer.md R164: `ADDR <- alignDown(REQ.ADDR, g)`. -/
def alignTo (g : Nat) (s : State) : State :=
  { s with addr := BitVec.ofNat 32 (alignDown s.req.addr.toNat g) }

/-- The erase phases, with the frame the operation sends. -/
def erasePhases (tx : State → List Byte) (s : State) : Run Unit :=
  (waitReady s).andThen fun _ s1 =>
    (writeEnable s1).andThen fun _ s2 =>
      (frame (tx s2) (s2.enter .commandIssue)).andThen fun _ s3 => waitComplete s3

/-- ESECT, request 0x5 (R186). -/
def execReqEsect (q : Args) (s : State) : Host.Outcome State Fault Refusal :=
  serve { toArgs := q, op := 0x5 }
    (fun s1 => erasePhases (fun s2 => frameSE s2.cfg s2.addr.toNat) (alignTo s1.cfg.sectorSize s1)) s

/-- EB32, request 0x6 (R187). -/
def execReqEb32 (q : Args) (s : State) : Host.Outcome State Fault Refusal :=
  serve { toArgs := q, op := 0x6 }
    (fun s1 => erasePhases (fun s2 => frameBE32 s2.cfg s2.addr.toNat) (alignTo s1.cfg.block32Size s1)) s

/-- EB64, request 0x7 (R188). -/
def execReqEb64 (q : Args) (s : State) : Host.Outcome State Fault Refusal :=
  serve { toArgs := q, op := 0x7 }
    (fun s1 => erasePhases (fun s2 => frameBE64 s2.cfg s2.addr.toNat) (alignTo s1.cfg.block64Size s1)) s

/-- ECHIP, request 0x8 (R189): no address; `REQ.ADDR` and `REQ.LEN` are ignored. -/
def execReqEchip (q : Args) (s : State) : Host.Outcome State Fault Refusal :=
  serve { toArgs := q, op := 0x8 } (erasePhases fun _ => frameCE) s

end Sys2Proof.Machine
end

