-- ==== Sys2Proof/Machine/Identify.lean ====
section
/-! DEFINITION. INIT and INFO (42_operations.md R181, R190), their phases ID_READ and UID_READ (41_sequencer.md R166),
and the requests with a reserved code (R191). -/

namespace Sys2Proof.Machine

/-- Row 3 of 41_sequencer.md R164: `INIT <- 0`, select line idle, to ID_READ. -/
def beginInit (s : State) : State := ({ s with init := false }.enter .idRead).select false

/-- Row 24: cache the identity triple, to UID_READ. -/
def cacheIdentity (rx : List Byte) (s : State) : State :=
  { s with
    idMfr := (decodeIdentity rx).1
    idType := (decodeIdentity rx).2.1
    idCap := (decodeIdentity rx).2.2 }.enter .uidRead

/-- Row 26: cache the unique id, mark the handle ready. -/
def finishInit (rx : List Byte) (s : State) : State :=
  { s with uid := decodeUid rx, init := true }

/-- Row 27: refresh the unique id, and the 11-byte payload `[ID_MFR, ID_TYPE, ID_CAP] ++ UID`. -/
def finishInfo (rx : List Byte) (s : State) : State :=
  { s with
    uid := decodeUid rx
    info := [s.idMfr, s.idType, s.idCap] ++ decodeUid rx }

/-- The body of INIT (R181). -/
def initBody (s : State) : Run Unit :=
  (frame (frameRDJDID s.cfg) (beginInit s)).andThen fun rx s1 =>
    if idOk s1.cfg rx then
      (frame (frameRDUID s1.cfg) (cacheIdentity rx s1)).andThen fun ru s2 => .ok () (finishInit ru s2)
    else .err .identityMismatch s1

/-- The body of INFO (R190), its check already made. -/
def infoBody (s : State) : Run Unit :=
  (frame (frameRDUID s.cfg) (s.enter .uidRead)).andThen fun ru s1 => .ok () (finishInfo ru s1)

/-- INIT, request 0x0 (R181). -/
def execReqInit (q : Args) (s : State) : Host.Outcome State Fault Refusal :=
  serve { toArgs := q, op := 0x0 } initBody s

/-- INFO, request 0x9 (R190). -/
def execReqInfo (q : Args) (s : State) : Host.Outcome State Fault Refusal :=
  serve { toArgs := q, op := 0x9 } infoBody s

/-- Reserved codes 0xA and 0xB (R191): the check raises InvalidArgument, so the body is never reached. -/
def execReservedAB (b : BitVec 1) (q : Args) (s : State) : Host.Outcome State Fault Refusal :=
  serve { toArgs := q, op := 0b101#3 ++ b } (fun s1 => .err .invalidArgument s1) s

/-- Reserved codes 0xC to 0xF (R191). -/
def execReservedCF (c : BitVec 2) (q : Args) (s : State) : Host.Outcome State Fault Refusal :=
  serve { toArgs := q, op := 0b11#2 ++ c } (fun s1 => .err .invalidArgument s1) s

end Sys2Proof.Machine
end

