-- ==== Sys2Proof/Machine/Programs.lean ====
section
/-! DEFINITION. WPAGE (42_operations.md R184) and WRITE, the page-aligned write splitter (R185; 41_sequencer.md
R165). -/

namespace Sys2Proof.Machine

/-- The program phases of 41_sequencer.md R157, with the payload the operation hands to Page Program. -/
def programPhases (payload : State → List Byte) (s : State) : Run Unit :=
  (waitReady s).andThen fun _ s1 =>
    (writeEnable s1).andThen fun _ s2 =>
      (frame2 (framePPhdr s2.cfg s2.addr.toNat) (payload s2) (s2.enter .commandIssue)).andThen fun _ s3 =>
        waitComplete s3

/-- WPAGE, request 0x3 (R184). -/
def execReqWpage (q : Args) (s : State) : Host.Outcome State Fault Refusal :=
  serve { toArgs := q, op := 0x3 } (fun s1 => programPhases (fun s2 => s2.req.wdata) (loadAddrLen s1)) s

/-- Row 5 of 41_sequencer.md R164: `ADDR <- REQ.ADDR; OFF <- 0; REM <- REQ.LEN`, to SPLIT. -/
def beginSplit (s : State) : State :=
  { s with addr := s.req.addr, off := 0, rem := s.req.len }.enter .split

/-- Row 10: `LEN <- chunkLen(ADDR, REM)`. -/
def nextChunk (s : State) : State :=
  { s with len := BitVec.ofNat 32 (chunkLen s.cfg s.addr.toNat s.rem.toNat) }

/-- Row 19: `ADDR <- ADDR + LEN; OFF <- OFF + LEN; REM <- REM - LEN`, to SPLIT. -/
def advance (s : State) : State :=
  { s with addr := s.addr + s.len, off := s.off + s.len, rem := s.rem - s.len }.enter .split

/-- The splitter's loop (R185). Every round takes at least one `Millis()` reading or ends waiting for one, so a bound
of one more than the readings at hand is never reached. -/
def splitLoop : Nat → State → Run Unit
  | 0, s => .wait s
  | bound + 1, s =>
    if s.rem = 0 then .ok () s
    else (programPhases chunkData (nextChunk s)).andThen fun _ s1 => splitLoop bound (advance s1)

/-- WRITE, request 0x4 (R185). -/
def execReqWrite (q : Args) (s : State) : Host.Outcome State Fault Refusal :=
  serve { toArgs := q, op := 0x4 } (fun s1 => splitLoop (s1.millis.length + 1) (beginSplit s1)) s

end Sys2Proof.Machine
end

