-- ==== Sys2Proof/Machine/Reads.lean ====
section
/-! DEFINITION. READ and FREAD (42_operations.md R182, R183): WAIT_READY, then COMMAND_ISSUE with receive
(41_sequencer.md R158). -/

namespace Sys2Proof.Machine

/-- The read phases, with the header the operation builds from `ADDR`. -/
def readBody (hdr : State → List Byte) (s : State) : Run Unit :=
  (waitReady (loadAddrLen s)).andThen fun _ s1 =>
    (frame2 (hdr s1) (frameRx s1.cfg s1.len.toNat) (s1.enter .commandIssue)).andThen fun rx2 s2 =>
      .ok () { s2 with rdata := rx2 }

/-- READ, request 0x1 (R182). -/
def execReqRead (q : Args) (s : State) : Host.Outcome State Fault Refusal :=
  serve { toArgs := q, op := 0x1 } (readBody fun s1 => frameREADhdr s1.cfg s1.addr.toNat) s

/-- FREAD, request 0x2 (R183): the header has one dummy byte more. -/
def execReqFread (q : Args) (s : State) : Host.Outcome State Fault Refusal :=
  serve { toArgs := q, op := 0x2 } (readBody fun s1 => frameFREADhdr s1.cfg s1.addr.toNat) s

end Sys2Proof.Machine
end

