-- ==== Sys2Proof/Machine/Wire.lean ====
section
/-! DEFINITION. The twelve wire frames, each run by itself: eleven in one chip-select window, Read Device ID built only
(40_encoder.md R122 to R133; 41_sequencer.md R151, R152; log 4). -/

namespace Sys2Proof.Machine

/-- WREN (R122): one window `[06]`, response ignored. -/
def execWren (s : State) : Host.Outcome State Fault Refusal :=
  runFrame .wren (frame frameWREN) s

/-- RDSR (R123): one window; the status byte goes to `SR`. -/
def execRdsr (s : State) : Host.Outcome State Fault Refusal :=
  runFrame .rdsr (frame (frameRDSR s.cfg)) s

/-- READ, the wire frame (R124): header, then `n` receive bytes. -/
def execRead (a : BitVec 24) (n : Nat) (s : State) : Host.Outcome State Fault Refusal :=
  runFrame (.read a n) (frame2 (frameREADhdr s.cfg a.toNat) (frameRx s.cfg n)) s

/-- FAST_READ (R125): header with one dummy, then `n` receive bytes. -/
def execFastRead (a : BitVec 24) (n : Nat) (s : State) : Host.Outcome State Fault Refusal :=
  runFrame (.fastRead a n) (frame2 (frameFREADhdr s.cfg a.toNat) (frameRx s.cfg n)) s

/-- PP (R126): header, then the payload. -/
def execPp (a : BitVec 24) (payload : List Byte) (s : State) : Host.Outcome State Fault Refusal :=
  runFrame (.pp a payload) (frame2 (framePPhdr s.cfg a.toNat) payload) s

/-- SE (R127). The encoder does not align. -/
def execSe (a : BitVec 24) (s : State) : Host.Outcome State Fault Refusal :=
  runFrame (.se a) (frame (frameSE s.cfg a.toNat)) s

/-- BE32 (R128). -/
def execBe32 (a : BitVec 24) (s : State) : Host.Outcome State Fault Refusal :=
  runFrame (.be32 a) (frame (frameBE32 s.cfg a.toNat)) s

/-- BE64 (R129). -/
def execBe64 (a : BitVec 24) (s : State) : Host.Outcome State Fault Refusal :=
  runFrame (.be64 a) (frame (frameBE64 s.cfg a.toNat)) s

/-- CE (R130): one byte, no address. -/
def execCe (s : State) : Host.Outcome State Fault Refusal :=
  runFrame .ce (frame frameCE) s

/-- RDJDID (R131): the identity is received in the three dummy positions. -/
def execRdjdid (s : State) : Host.Outcome State Fault Refusal :=
  runFrame .rdjdid (frame (frameRDJDID s.cfg)) s

/-- RDID (R132): "The block defines the frame function and never puts it on the bus" (decision D31), so the frame is
built and no window is made. -/
def execRdid (s : State) : Host.Outcome State Fault Refusal :=
  buildFrame .rdid s

/-- RDUID (R133): header, dummies and id phase in one Transfer (decision D9). -/
def execRduid (s : State) : Host.Outcome State Fault Refusal :=
  runFrame .rduid (frame (frameRDUID s.cfg)) s

end Sys2Proof.Machine
end

