-- ==== Sys2Proof/Machine/Dispatch.lean ====
section
/-! DEFINITION. exec: one arm per constructor of Instr, each one call of its meaning. -/

namespace Sys2Proof.Machine

open Sys2Proof

def exec (i : Instr) (s : State) : Host.Outcome State Fault Refusal :=
  match i with
  | .wren => Sys2Proof.Machine.execWren s
  | .rdsr => Sys2Proof.Machine.execRdsr s
  | .read a n => Sys2Proof.Machine.execRead a n s
  | .fastRead a n => Sys2Proof.Machine.execFastRead a n s
  | .pp a payload => Sys2Proof.Machine.execPp a payload s
  | .se a => Sys2Proof.Machine.execSe a s
  | .be32 a => Sys2Proof.Machine.execBe32 a s
  | .be64 a => Sys2Proof.Machine.execBe64 a s
  | .ce => Sys2Proof.Machine.execCe s
  | .rdjdid => Sys2Proof.Machine.execRdjdid s
  | .rdid => Sys2Proof.Machine.execRdid s
  | .rduid => Sys2Proof.Machine.execRduid s
  | .reqInit q => Sys2Proof.Machine.execReqInit q s
  | .reqRead q => Sys2Proof.Machine.execReqRead q s
  | .reqFread q => Sys2Proof.Machine.execReqFread q s
  | .reqWpage q => Sys2Proof.Machine.execReqWpage q s
  | .reqWrite q => Sys2Proof.Machine.execReqWrite q s
  | .reqEsect q => Sys2Proof.Machine.execReqEsect q s
  | .reqEb32 q => Sys2Proof.Machine.execReqEb32 q s
  | .reqEb64 q => Sys2Proof.Machine.execReqEb64 q s
  | .reqEchip q => Sys2Proof.Machine.execReqEchip q s
  | .reqInfo q => Sys2Proof.Machine.execReqInfo q s
  | .reservedAB b q => Sys2Proof.Machine.execReservedAB b q s
  | .reservedCF c q => Sys2Proof.Machine.execReservedCF c q s

end Sys2Proof.Machine
end

