-- ==== Sys2Proof/Machine/Sequencer.lean ====
section
/-! DEFINITION. The phase machine of 41_sequencer.md R164 at the grain of 00_scope.md R8: `tick` makes one interface
event (or one of the table's moves that have no event) of the operation in progress. The meanings of the requests are
the straight-line form of the same paths. -/

namespace Sys2Proof.Machine

/-- The Transfers of the current phase's window (41_sequencer.md R154, R159, R160, R166). -/
def phaseParts (s : State) : List (List Byte) :=
  match s.phase with
  | .waitReady => [frameRDSR s.cfg]
  | .waitComplete => [frameRDSR s.cfg]
  | .writeEnable => [frameWREN]
  | .commandIssue =>
    match s.job with
    | some i => issuedParts s.cfg i
    | none => commandParts s
  | .idRead => [frameRDJDID s.cfg]
  | .uidRead => [frameRDUID s.cfg]
  | .idle => []
  | .validate => []
  | .split => []
  | .done => []
  | .failed => []

/-- Rows 3 to 8: what follows a VALIDATE that found nothing wrong. A reserved code never passes its check. -/
def afterValidate (s : State) : Option State :=
  match opOfCode s.req.op with
  | .init => some (beginInit s)
  | .info => some (s.enter .uidRead)
  | .write => some (beginSplit s)
  | .read => some (enterReady (loadAddrLen s))
  | .fread => some (enterReady (loadAddrLen s))
  | .wpage => some (enterReady (loadAddrLen s))
  | .esect => some (enterReady (alignTo s.cfg.sectorSize s))
  | .eb32 => some (enterReady (alignTo s.cfg.block32Size s))
  | .eb64 => some (enterReady (alignTo s.cfg.block64Size s))
  | .echip => some (enterReady s)
  | .reserved => none

/-- Rows 2 to 8. -/
def tickValidate (s : State) : Option State :=
  match validate s with
  | some c => some (raise c s)
  | none => afterValidate s

/-- Rows 9 and 10. -/
def tickSplit (s : State) : State :=
  if s.rem = 0 then s.enter .done else enterReady (nextChunk s)

/-- Rows 11, 12, 19 and 20: what follows a wait that ended with BUSY clear. None where the table has no row (log 18). -/
def afterWait (s : State) : Option State :=
  match s.phase, opOfCode s.req.op with
  | .waitReady, .read => some (s.enter .commandIssue)
  | .waitReady, .fread => some (s.enter .commandIssue)
  | .waitReady, .wpage => some (s.enter .writeEnable)
  | .waitReady, .write => some (s.enter .writeEnable)
  | .waitReady, .esect => some (s.enter .writeEnable)
  | .waitReady, .eb32 => some (s.enter .writeEnable)
  | .waitReady, .eb64 => some (s.enter .writeEnable)
  | .waitReady, .echip => some (s.enter .writeEnable)
  | .waitComplete, .write => some (advance s)
  | .waitComplete, .wpage => some (s.enter .done)
  | .waitComplete, .esect => some (s.enter .done)
  | .waitComplete, .eb32 => some (s.enter .done)
  | .waitComplete, .eb64 => some (s.enter .done)
  | .waitComplete, .echip => some (s.enter .done)
  | _, _ => none

/-- Rows 16 and 17: what follows the command window. -/
def afterCommand (rx : List Byte) (s : State) : Option State :=
  match s.job with
  | some i => some ((absorbFrame i rx s).enter .done)
  | none =>
    match opOfCode s.req.op with
    | .read => some ({ s with rdata := rx }.enter .done)
    | .fread => some ({ s with rdata := rx }.enter .done)
    | .wpage => some (enterComplete s)
    | .write => some (enterComplete s)
    | .esect => some (enterComplete s)
    | .eb32 => some (enterComplete s)
    | .eb64 => some (enterComplete s)
    | .echip => some (enterComplete s)
    | .init => none
    | .info => none
    | .reserved => none

/-- Rows 26 and 27. -/
def afterUid (ru : List Byte) (s : State) : Option State :=
  match opOfCode s.req.op with
  | .init => some ((finishInit ru s).enter .done)
  | .info => some ((finishInfo ru s).enter .done)
  | _ => none

/-- What a closed window's received bytes do in the current phase: the poll of R154, and rows 14, 16, 17, 23, 24, 26
and 27 of R164. -/
def absorb (rx : List Byte) (s : State) : Option State :=
  match s.phase with
  | .waitReady =>
    let s1 := { s with sr := rxAt rx 1 }
    if busyFlag s1.sr then some (s1.stay .busy) else afterWait s1
  | .waitComplete =>
    let s1 := { s with sr := rxAt rx 1 }
    if busyFlag s1.sr then some (s1.stay .busy) else afterWait s1
  | .writeEnable => some (s.enter .commandIssue)
  | .commandIssue => afterCommand rx s
  | .idRead =>
    if idOk s.cfg rx then some (cacheIdentity rx s) else some (raise .identityMismatch s)
  | .uidRead => afterUid rx s
  | .idle => none
  | .validate => none
  | .split => none
  | .done => none
  | .failed => none

/-- The events inside a bus window (R151, R152): the next Transfer, or `Select(false)` with what follows. -/
def tickWindow (s : State) : Option State :=
  match s.pos with
  | .sending (tx :: later) =>
    match s.xfers with
    | [] => none
    | x :: xs =>
      let r := x.view tx.length
      let s1 := { s with xfers := xs }.emit (.transfer tx r)
      match r, later with
      | none, _ => some (s1.stay (.closing none))
      | some rx, [] => some (s1.stay (.closing (some rx)))
      | some _, tx2 :: later2 => some (s1.stay (.sending (tx2 :: later2)))
  | .closing none => some (raise .transportFault (s.select false))
  | .closing (some rx) => absorb rx (s.select false)
  | _ => none

/-- `Select(true)`: the phase's window opens. None where the phase has no window. -/
def openWindow (s : State) : Option State :=
  match phaseParts s with
  | [] => none
  | tx :: later => some ((s.select true).stay (.sending (tx :: later)))

/-- A phase that is one window: WRITE_ENABLE, COMMAND_ISSUE, ID_READ, UID_READ. -/
def tickFrame (s : State) : Option State :=
  match s.pos with
  | .start => openWindow s
  | _ => tickWindow s

/-- A wait phase (R154): `T0 <- Millis()`, then poll, `Millis()` after a busy poll, `Sleep` before the next. -/
def tickWait (s : State) : Option State :=
  match s.pos with
  | .start =>
    match s.millis with
    | [] => none
    | v :: rest => some (({ s with millis := rest, t0 := v }.emit (.millis v)).stay .poll)
  | .poll => openWindow s
  | .busy =>
    match s.millis with
    | [] => none
    | now :: rest =>
      let s1 := { s with millis := rest }.emit (.millis now)
      if timedOut s1.t0 s1.tbudget now then some (raise .timeout s1) else some (s1.stay .nap)
  | .nap => some ((s.sleep s.cfg.pollMs).stay .poll)
  | _ => tickWindow s

/-- One event of the operation in progress; none while the block waits for an answer of the host, in IDLE, and where
R164 has no row. -/
def tick (s : State) : Option State :=
  match s.phase with
  | .idle => none
  | .validate => tickValidate s
  | .split => some (tickSplit s)
  | .waitReady => tickWait s
  | .waitComplete => tickWait s
  | .writeEnable => tickFrame s
  | .commandIssue => tickFrame s
  | .idRead => tickFrame s
  | .uidRead => tickFrame s
  | .done => some (respondOk s)
  | .failed => some (respondError s)

/-- At most `n` events, fewer if the block comes to wait. -/
def ticks : Nat → State → State
  | 0, s => s
  | n + 1, s =>
    match tick s with
    | some s1 => ticks n s1
    | none => s

end Sys2Proof.Machine
end

