-- ==== Sys2Proof/Machine/Step.lean ====
section
/-! DEFINITION. One step of the machine: what it fetches, and what it does around exec (log 3). -/

namespace Sys2Proof.Machine

/-- Which refusal an ill-formed instruction gets: a request by 30_encoding.md R102, a wire frame by R97. -/
def refusalOf : Offer → Refusal
  | .request _ => .malformedRequest
  | .frame _ => .malformedFrame

/-- In IDLE: take the oldest offer (which of several is a DESIGN CHOICE, log 28), decode it, and accept it
(41_sequencer.md R150), which is one event, or accept it and run it (log 3). With nothing offered the block stays as it
is. What is not well-formed is refused and not accepted; with another block's window open on the bus the
step is a fault (60_exceptions.md R245). -/
def stepIdle (s : State) : Host.Outcome State Fault Refusal :=
  match s.inbox with
  | [] => .next s
  | o :: rest =>
    match decode o with
    | .error r => .refused (.undecodable r)
    | .ok i =>
      if i.wf s.cfg then
        if s.foreignWindow then .fault .interleavedWindow
        else if s.byEvents then .next (acceptOffer o i { s with inbox := rest })
        else exec i { s with inbox := rest }
      else .refused (refusalOf o)

/-- With an operation in progress: its next event, or no change while the host's answer is missing
(60_exceptions.md R239). -/
def stepBusy (s : State) : Host.Outcome State Fault Refusal :=
  if s.foreignWindow then .fault .interleavedWindow else .next ((tick s).getD s)

/-- One step: reset if it is asserted (70_reset_and_hazards.md R261), else the offer at hand in IDLE, else the
operation in progress. -/
def step (s : State) : Host.Outcome State Fault Refusal :=
  if s.resetLine then .next (hardReset s)
  else if s.phase = .idle then stepIdle s
  else stepBusy s

/-- `s` with a table word's instruction offered first, in a block that is in IDLE and is not taken event by event, so
that the next step runs it (log 15). -/
def State.withFetchWord (s : State) (nbits w : Nat) : State :=
  { s with
    inbox := offerOfWord nbits w :: s.inbox
    phase := .idle
    pos := .start
    job := none
    foreignWindow := false
    resetLine := false
    byEvents := false }

end Sys2Proof.Machine
end

