-- ==== Sys2Proof/Safety.lean ====
section
/-! DEFINITION. The terms claims use: the chip-select discipline of 41_sequencer.md R153 over the event trace, the
invariants of the registers, what a request run leaves alone, and scripts of host answers (a good run of a wait, of a
command, of a split write) with the events they give. -/

namespace Sys2Proof.Machine

/-! ## Chip-select over a trace -/

/-- Chip-select after one more event; none once the discipline of R153 is broken: a Transfer needs it asserted, a
second `Select(true)` must not come before a `Select(false)`, and every event that is neither needs it deasserted. -/
def csAfter : Option Bool → Event → Option Bool
  | none, _ => none
  | some true, .select true => none
  | some false, .select true => some true
  | some _, .select false => some false
  | some true, .transfer _ _ => some true
  | some false, .transfer _ _ => none
  | some true, .accept _ => none
  | some false, .accept _ => some false
  | some true, .acceptFrame _ => none
  | some false, .acceptFrame _ => some false
  | some true, .millis _ => none
  | some false, .millis _ => some false
  | some true, .sleep _ => none
  | some false, .sleep _ => some false
  | some true, .respond _ => none
  | some false, .respond _ => some false

/-- Chip-select after a list of events that begins at `c`. -/
def csWalk (c : Option Bool) (es : List Event) : Option Bool := es.foldl csAfter c

/-- The trace keeps R153 and ends with chip-select as `CS` says. -/
def BusDiscipline (s : State) : Prop := csWalk (some false) s.trace = some s.cs

/-! ## Invariants -/

/-- A phase whose procedure is one window. -/
def Phase.isFrame : Phase → Bool
  | .writeEnable | .commandIssue | .idRead | .uidRead => true
  | .idle | .validate | .split | .waitReady | .waitComplete | .done | .failed => false

/-- A wait phase. -/
def Phase.isWait : Phase → Bool
  | .waitReady | .waitComplete => true
  | .idle | .validate | .split | .writeEnable | .commandIssue | .idRead | .uidRead | .done | .failed => false

/-- A window is open at this place. -/
def Pos.windowOpen : Pos → Bool
  | .sending _ | .closing _ => true
  | .start | .poll | .busy | .nap => false

/-- The place is one the phase's procedure has. -/
def posFits (p : Phase) : Pos → Bool
  | .start => true
  | .sending _ | .closing _ => p.isFrame || p.isWait
  | .poll | .busy | .nap => p.isWait

/-- The invariant of every step: R153 over the trace, chip-select asserted exactly inside a window, no window in a
phase that has none, and no wire frame in progress in IDLE. -/
def Inv (s : State) : Prop :=
  BusDiscipline s ∧ s.cs = s.pos.windowOpen ∧ posFits s.phase s.pos = true ∧ (s.phase = .idle → s.job = none)

/-- `OFF`, `REM`, `ADDR` and `REQ` of a multi-page Write in progress (10_state.md R41), with the request in range. -/
def CursorInv (s : State) : Prop :=
  s.req.addr.toNat + s.req.len.toNat ≤ s.cfg.chipSize ∧
  s.addr.toNat = s.req.addr.toNat + s.off.toNat ∧ s.off.toNat + s.rem.toNat = s.req.len.toNat

/-- The chunk in progress is `chunkLen(ADDR, REM)` bytes of a page (10_state.md R39; 20_memory.md R69). -/
def ChunkInv (s : State) : Prop :=
  CursorInv s ∧ 1 ≤ s.rem.toNat ∧ s.len.toNat = chunkLen s.cfg s.addr.toNat s.rem.toNat

/-- A phase between the first WAIT_READY and the end of an operation's command. -/
def Phase.isRunning : Phase → Bool
  | .waitReady | .writeEnable | .commandIssue | .waitComplete => true
  | .idle | .validate | .split | .idRead | .uidRead | .done | .failed => false

/-- What the registers of a request in progress hold, so that every address it puts on the wire is below CHIP_SIZE
(10_state.md R38, R41; 42_operations.md R180): the cursor in SPLIT, and per operation in the phases that follow
validation. -/
def RegInv (s : State) : Prop :=
  s.job = none →
  (s.phase = .split → opOfCode s.req.op = .write ∧ CursorInv s) ∧
  (s.phase.isRunning = true →
    match opOfCode s.req.op with
    | .write => ChunkInv s
    | .read => s.addr = s.req.addr ∧ s.len = s.req.len ∧ 1 ≤ s.len.toNat ∧ s.addr.toNat + s.len.toNat ≤ s.cfg.chipSize
    | .fread => s.addr = s.req.addr ∧ s.len = s.req.len ∧ 1 ≤ s.len.toNat ∧ s.addr.toNat + s.len.toNat ≤ s.cfg.chipSize
    | .wpage => s.addr = s.req.addr ∧ s.len = s.req.len ∧ pageFits s.cfg s.addr.toNat s.len.toNat = true ∧
        s.addr.toNat + s.len.toNat ≤ s.cfg.chipSize
    | .esect => s.addr.toNat = alignDown s.req.addr.toNat s.cfg.sectorSize ∧ s.req.addr.toNat < s.cfg.chipSize
    | .eb32 => s.addr.toNat = alignDown s.req.addr.toNat s.cfg.block32Size ∧ s.req.addr.toNat < s.cfg.chipSize
    | .eb64 => s.addr.toNat = alignDown s.req.addr.toNat s.cfg.block64Size ∧ s.req.addr.toNat < s.cfg.chipSize
    | .echip => True
    | .init => False
    | .info => False
    | .reserved => False)

/-! ## What a run leaves alone -/

/-- The handle state (10_state.md R31 to R33) is the same. -/
def SameHandle (s t : State) : Prop :=
  t.init = s.init ∧ t.idMfr = s.idMfr ∧ t.idType = s.idType ∧ t.idCap = s.idCap ∧ t.uid = s.uid

/-- The operation registers `ADDR`, `LEN`, `REM`, `OFF` are the same. -/
def SameCursor (s t : State) : Prop :=
  t.addr = s.addr ∧ t.len = s.len ∧ t.rem = s.rem ∧ t.off = s.off

/-- `T0`, `TBUDGET` and `SR` are the same. -/
def SameWait (s t : State) : Prop := t.t0 = s.t0 ∧ t.tbudget = s.tbudget ∧ t.sr = s.sr

/-- What no instruction touches: the configuration, the reset line, the bus flag, the grain at which the block is taken,
and the offers not yet taken. -/
def SameOutside (s t : State) : Prop :=
  t.cfg = s.cfg ∧ t.resetLine = s.resetLine ∧ t.foreignWindow = s.foreignWindow ∧ t.byEvents = s.byEvents ∧
  t.inbox = s.inbox

/-! ## Scripts of host answers -/

/-- The events of one window in which every Transfer is answered. -/
def windowEvents (parts rxs : List (List Byte)) : List Event :=
  .select true :: (List.zipWith (fun tx rx => Event.transfer tx (some rx)) parts rxs ++ [.select false])

/-- Answers that fit the Transfers of a window, byte for byte (60_exceptions.md R239). -/
def answersFit (parts rxs : List (List Byte)) : Prop := parts.map List.length = rxs.map List.length

/-- One poll that found the device busy: the two bytes received, and the reading of `Millis()` after it. -/
structure BusyPoll where
  rx : List Byte
  now : U32
deriving DecidableEq, Repr

/-- The host's answers to a wait that ends with BUSY clear: the first reading, the busy polls, and the last poll. -/
structure WaitScript where
  t0 : U32
  busy : List BusyPoll
  last : List Byte
deriving DecidableEq, Repr

/-- The answers to the polls' Transfers. -/
def WaitScript.answers (w : WaitScript) : List XferAnswer := w.busy.map (fun p => .ok p.rx) ++ [.ok w.last]

/-- The readings of the counter. -/
def WaitScript.readings (w : WaitScript) : List U32 := w.t0 :: w.busy.map BusyPoll.now

/-- The events of the wait (41_sequencer.md R154): `Millis`, then per busy poll its window, `Millis` and `Sleep`, then
the last poll's window. -/
def WaitScript.events (cfg : Config) (w : WaitScript) : List Event :=
  .millis w.t0 ::
    (w.busy.flatMap (fun p => windowEvents [frameRDSR cfg] [p.rx] ++ [.millis p.now, .sleep cfg.pollMs]) ++
      windowEvents [frameRDSR cfg] [w.last])

/-- The script is one of a wait that succeeds within `budget`: two bytes per poll, BUSY set and the budget not elapsed
at every busy poll, BUSY clear at the last. -/
def WaitScript.Good (budget : U32) (w : WaitScript) : Prop :=
  (∀ p ∈ w.busy, p.rx.length = 2 ∧ busyFlag (rxAt p.rx 1) = true ∧ timedOut w.t0 budget p.now = false) ∧
  w.last.length = 2 ∧ busyFlag (rxAt w.last 1) = false

/-- The host's answers to the phases of a program or an erase (41_sequencer.md R157). -/
structure CommandScript where
  ready : WaitScript
  wren : List Byte
  command : List (List Byte)
  complete : WaitScript
deriving DecidableEq, Repr

/-- The answers to its Transfers. -/
def CommandScript.answers (c : CommandScript) : List XferAnswer :=
  c.ready.answers ++ .ok c.wren :: (c.command.map .ok ++ c.complete.answers)

/-- The readings of the counter. -/
def CommandScript.readings (c : CommandScript) : List U32 := c.ready.readings ++ c.complete.readings

/-- The events: WAIT_READY, the Write Enable window, the command window, WAIT_COMPLETE. -/
def CommandScript.events (cfg : Config) (parts : List (List Byte)) (c : CommandScript) : List Event :=
  c.ready.events cfg ++ windowEvents [frameWREN] [c.wren] ++ windowEvents parts c.command ++ c.complete.events cfg

/-- The script is one of a program or erase that succeeds. -/
def CommandScript.Good (cfg : Config) (budget : U32) (parts : List (List Byte)) (c : CommandScript) : Prop :=
  c.ready.Good cfg.tReadyMs ∧ c.wren.length = 1 ∧ answersFit parts c.command ∧ c.complete.Good budget

/-- The two Transfers of the Page Program of a chunk at `a` with data `d` (41_sequencer.md R160). -/
def chunkParts (cfg : Config) (a : Nat) (d : List Byte) : List (List Byte) := [framePPhdr cfg a, d]

/-- The chunks of a write with their payloads: `d[a_i - A .. a_i - A + c_i - 1]` (42_operations.md R192 (f)). -/
def chunkPieces (cfg : Config) (a : Nat) (d : List Byte) : List (Nat × List Byte) :=
  (chunks cfg d.length a d.length).map fun p => (p.1, (d.drop (p.1 - a)).take p.2)

/-- The events of a split write: the program phases of every chunk, in order. -/
def writeEvents (cfg : Config) (pieces : List (Nat × List Byte)) (scripts : List CommandScript) : List Event :=
  (List.zipWith (fun p c => CommandScript.events cfg (chunkParts cfg p.1 p.2) c) pieces scripts).flatten

/-- The scripts fit the chunks, one each, and every chunk succeeds. -/
def WriteScript.Good (cfg : Config) (pieces : List (Nat × List Byte)) (scripts : List CommandScript) : Prop :=
  List.Forall₂ (fun p c => CommandScript.Good cfg cfg.tPpMs (chunkParts cfg p.1 p.2) c) pieces scripts

/-- The Ok response (41_sequencer.md R161). -/
def okResponse (rdata info : List Byte) : Event :=
  .respond { result := .ok, cause := .none, rdata := rdata, info := info }

/-- The Error response (R162). -/
def errorResponse (c : Cause) : Event := .respond { result := .error, cause := c, rdata := [], info := [] }

/-! ## Scripts of host answers that end in an error -/

/-- The events of a window in which the Transfers before the last one made are answered and that one faults: nothing
more is sent, and chip-select is deasserted (41_sequencer.md R151, R152). -/
def faultEvents (parts rxs : List (List Byte)) : List Event :=
  .select true :: (List.zipWith (fun tx rx => Event.transfer tx (some rx)) parts rxs ++
    (((parts.drop rxs.length).take 1).map (fun tx => Event.transfer tx none) ++ [.select false]))

/-- Answers to the first Transfers of a window, byte for byte, with at least one Transfer after them. -/
def answersBegin (parts rxs : List (List Byte)) : Prop :=
  rxs.length < parts.length ∧ answersFit (parts.take rxs.length) rxs

/-- How a wait fails: a poll's Transfer faults, or a poll finds BUSY at a reading where the budget has elapsed. -/
inductive WaitEnd where
  | fault
  | late (p : BusyPoll)
deriving DecidableEq, Repr

/-- The host's answers to a wait that fails: the first reading, the busy polls, and how it ends. -/
structure FailedWait where
  t0 : U32
  busy : List BusyPoll
  last : WaitEnd
deriving DecidableEq, Repr

/-- The cause with which the wait fails. -/
def FailedWait.cause (w : FailedWait) : Cause :=
  match w.last with
  | .fault => .transportFault
  | .late _ => .timeout

/-- The answers to the polls' Transfers. -/
def FailedWait.answers (w : FailedWait) : List XferAnswer :=
  w.busy.map (fun p => .ok p.rx) ++
    match w.last with
    | .fault => [.fault]
    | .late p => [.ok p.rx]

/-- The readings of the counter: none after a fault (60_exceptions.md R233 (c)). -/
def FailedWait.readings (w : FailedWait) : List U32 :=
  w.t0 :: (w.busy.map BusyPoll.now ++
    match w.last with
    | .fault => []
    | .late p => [p.now])

/-- The events of the wait (41_sequencer.md R154). -/
def FailedWait.events (cfg : Config) (w : FailedWait) : List Event :=
  .millis w.t0 ::
    (w.busy.flatMap (fun p => windowEvents [frameRDSR cfg] [p.rx] ++ [.millis p.now, .sleep cfg.pollMs]) ++
      match w.last with
      | .fault => faultEvents [frameRDSR cfg] []
      | .late p => windowEvents [frameRDSR cfg] [p.rx] ++ [.millis p.now])

/-- The script is one of a wait that fails under `budget`. -/
def FailedWait.Fails (budget : U32) (w : FailedWait) : Prop :=
  (∀ p ∈ w.busy, p.rx.length = 2 ∧ busyFlag (rxAt p.rx 1) = true ∧ timedOut w.t0 budget p.now = false) ∧
  match w.last with
  | .fault => True
  | .late p => p.rx.length = 2 ∧ busyFlag (rxAt p.rx 1) = true ∧ timedOut w.t0 budget p.now = true

/-- How the phases of a program or an erase (41_sequencer.md R157) fail, with the answers up to there: in WAIT_READY, in
the Write Enable window, in the command window after the answers `rxs`, or in WAIT_COMPLETE. -/
inductive FailedCommand where
  | ready (w : FailedWait)
  | writeEnable (ready : WaitScript)
  | command (ready : WaitScript) (wren : List Byte) (rxs : List (List Byte))
  | complete (ready : WaitScript) (wren : List Byte) (command : List (List Byte)) (w : FailedWait)
deriving DecidableEq, Repr

/-- The cause with which the operation ends. -/
def FailedCommand.cause : FailedCommand → Cause
  | .ready w => w.cause
  | .writeEnable _ => .transportFault
  | .command _ _ _ => .transportFault
  | .complete _ _ _ w => w.cause

/-- The program or erase frame was begun: the bytes it could reach are then unknown, and before it none are
(20_memory.md R73). -/
def FailedCommand.begun : FailedCommand → Bool
  | .ready _ => false
  | .writeEnable _ => false
  | .command _ _ _ => true
  | .complete _ _ _ _ => true

/-- The answers to the Transfers. -/
def FailedCommand.answers : FailedCommand → List XferAnswer
  | .ready w => w.answers
  | .writeEnable r => r.answers ++ [.fault]
  | .command r wren rxs => r.answers ++ .ok wren :: (rxs.map .ok ++ [.fault])
  | .complete r wren rxs w => r.answers ++ .ok wren :: (rxs.map .ok ++ w.answers)

/-- The readings of the counter. -/
def FailedCommand.readings : FailedCommand → List U32
  | .ready w => w.readings
  | .writeEnable r => r.readings
  | .command r _ _ => r.readings
  | .complete r _ _ w => r.readings ++ w.readings

/-- The events, for a command window that would send `parts`. -/
def FailedCommand.events (cfg : Config) (parts : List (List Byte)) : FailedCommand → List Event
  | .ready w => w.events cfg
  | .writeEnable r => r.events cfg ++ faultEvents [frameWREN] []
  | .command r wren rxs => r.events cfg ++ windowEvents [frameWREN] [wren] ++ faultEvents parts rxs
  | .complete r wren rxs w =>
    r.events cfg ++ windowEvents [frameWREN] [wren] ++ windowEvents parts rxs ++ w.events cfg

/-- The script is one of a program or erase that fails there. -/
def FailedCommand.Fails (cfg : Config) (budget : U32) (parts : List (List Byte)) : FailedCommand → Prop
  | .ready w => w.Fails cfg.tReadyMs
  | .writeEnable r => r.Good cfg.tReadyMs
  | .command r wren rxs => r.Good cfg.tReadyMs ∧ wren.length = 1 ∧ answersBegin parts rxs
  | .complete r wren rxs w => r.Good cfg.tReadyMs ∧ wren.length = 1 ∧ answersFit parts rxs ∧ w.Fails budget

/-- How the phases of a read (41_sequencer.md R158) fail: in WAIT_READY, or in the command window after the answers
`rxs`. -/
inductive FailedRead where
  | ready (w : FailedWait)
  | command (ready : WaitScript) (rxs : List (List Byte))
deriving DecidableEq, Repr

/-- The cause with which the read ends. -/
def FailedRead.cause : FailedRead → Cause
  | .ready w => w.cause
  | .command _ _ => .transportFault

/-- The answers to the Transfers. -/
def FailedRead.answers : FailedRead → List XferAnswer
  | .ready w => w.answers
  | .command r rxs => r.answers ++ (rxs.map .ok ++ [.fault])

/-- The readings of the counter. -/
def FailedRead.readings : FailedRead → List U32
  | .ready w => w.readings
  | .command r _ => r.readings

/-- The events, for a command window that would send `parts`. -/
def FailedRead.events (cfg : Config) (parts : List (List Byte)) : FailedRead → List Event
  | .ready w => w.events cfg
  | .command r rxs => r.events cfg ++ faultEvents parts rxs

/-- The script is one of a read that fails there. -/
def FailedRead.Fails (cfg : Config) (parts : List (List Byte)) : FailedRead → Prop
  | .ready w => w.Fails cfg.tReadyMs
  | .command r rxs => r.Good cfg.tReadyMs ∧ answersBegin parts rxs

/-! ## Windows on the bus -/

/-- The bytes of each complete window of a trace, in order: what was transmitted between one `Select(true)` and the
next `Select(false)` with every Transfer answered (30_encoding.md R90). `open?` is the window being collected. -/
def windowsFrom : Option (List Byte) → List Event → List (List Byte)
  | _, [] => []
  | _, .select true :: es => windowsFrom (some []) es
  | some bytes, .transfer tx (some _) :: es => windowsFrom (some (bytes ++ tx)) es
  | _, .transfer _ none :: es => windowsFrom none es
  | some bytes, .select false :: es => bytes :: windowsFrom none es
  | w, _ :: es => windowsFrom w es

/-- The complete windows of a trace. -/
def windows (es : List Event) : List (List Byte) := windowsFrom none es

/-- What a wire frame of a request may reach: its address, with its data, is below CHIP_SIZE, a program keeps to one
page, and an erase begins at its unit (20_memory.md R62, R67, R68, R70). -/
def frameInRange (cfg : Config) : Instr → Prop
  | .read a n => a.toNat + n ≤ cfg.chipSize
  | .fastRead a n => a.toNat + n ≤ cfg.chipSize
  | .pp a p => a.toNat + p.length ≤ cfg.chipSize ∧ a.toNat % cfg.pageSize + p.length ≤ cfg.pageSize
  | .se a => a.toNat < cfg.chipSize ∧ a.toNat % cfg.sectorSize = 0
  | .be32 a => a.toNat < cfg.chipSize ∧ a.toNat % cfg.block32Size = 0
  | .be64 a => a.toNat < cfg.chipSize ∧ a.toNat % cfg.block64Size = 0
  | .wren | .rdsr | .ce | .rdjdid | .rdid | .rduid | .reqInit _ | .reqRead _ | .reqFread _ | .reqWpage _ | .reqWrite _
  | .reqEsect _ | .reqEb32 _ | .reqEb64 _ | .reqEchip _ | .reqInfo _ | .reservedAB _ _ | .reservedCF _ _ => True

/-- An event that is neither the acceptance nor the response of an operation: bus or time activity. -/
def Event.isActivity : Event → Bool
  | .select _ | .transfer _ _ | .millis _ | .sleep _ => true
  | .accept _ | .acceptFrame _ | .respond _ => false

/-- A host request, not a wire frame. -/
def isRequest : Instr → Bool
  | .reqInit _ | .reqRead _ | .reqFread _ | .reqWpage _ | .reqWrite _ | .reqEsect _ | .reqEb32 _ | .reqEb64 _
  | .reqEchip _ | .reqInfo _ | .reservedAB _ _ | .reservedCF _ _ => true
  | .wren | .rdsr | .read _ _ | .fastRead _ _ | .pp _ _ | .se _ | .be32 _ | .be64 _ | .ce | .rdjdid | .rdid
  | .rduid => false

/-- The request record of a request; a wire frame has none. -/
def requestOf (cfg : Config) (i : Instr) : Option Request :=
  match encode cfg i with
  | .request r => some r
  | .frame _ => none

end Sys2Proof.Machine
end

