-- ==== Sys2Proof/Certificates/Slice0/Obligations.lean ====
section
/-! DEFINITION. The statements for the provers, and the few terms they are stated in that are written from the spec a
second time, independently of the model's own definitions. -/

open Sys2Proof Sys2Proof.Machine

namespace Sys2Proof.Machine

/-- The three address bytes of a 32-bit address register, high byte first (30_encoding.md R93). -/
def wireAddr (a : U32) : List Byte := [a.extractLsb' 16 8, a.extractLsb' 8 8, a.extractLsb' 0 8]

/-- The three bytes of a 24-bit address field. -/
def wireAddr24 (a : BitVec 24) : List Byte := [a.extractLsb' 16 8, a.extractLsb' 8 8, a.extractLsb' 0 8]

/-- The wire frames the block puts on the bus in one Transfer: instruction, transmitted bytes, response field of the
received bytes (30_encoding.md R91, R92, R97). -/
def oneWindowFrames (cfg : Config) (a : BitVec 24) : List (Instr × List Byte × (List Byte → List Byte)) :=
  [ (.wren, [0x06], fun _ => []),
    (.rdsr, [0x05, cfg.filler], fun rx => [rxAt rx 1]),
    (.se a, 0x20 :: wireAddr24 a, fun _ => []),
    (.be32 a, 0x52 :: wireAddr24 a, fun _ => []),
    (.be64 a, 0xD8 :: wireAddr24 a, fun _ => []),
    (.ce, [0xC7], fun _ => []),
    (.rdjdid, [0x9F, cfg.filler, cfg.filler, cfg.filler], fun rx => [rxAt rx 1, rxAt rx 2, rxAt rx 3]),
    (.rduid, 0x4B :: List.replicate 12 cfg.filler, fun rx => (rx.drop 5).take 8) ]

/-- The wire frames of two Transfers: instruction, header, body, response field. -/
def twoPartFrames (cfg : Config) (a : BitVec 24) (n : Nat) (p : List Byte) :
    List (Instr × List Byte × List Byte × (List Byte → List Byte)) :=
  [ (.read a n, 0x03 :: wireAddr24 a, List.replicate n cfg.filler, fun rx => rx),
    (.fastRead a n, 0x0B :: (wireAddr24 a ++ [cfg.filler]), List.replicate n cfg.filler, fun rx => rx),
    (.pp a p, 0x02 :: wireAddr24 a, p, fun _ => []) ]

/-- A request record from its code and operands. -/
def mkRequest (op : BitVec 4) (q : Args) : Request := { toArgs := q, op := op }

/-- `validate` of 42_operations.md R180, READ, FREAD and WRITE. -/
def specDataCause (cfg : Config) (q : Args) : Option Cause :=
  if q.bufp = false then some .invalidArgument
  else if q.len.toNat = 0 then some .invalidArgument
  else if cfg.chipSize < q.addr.toNat + q.len.toNat then some .outOfRange
  else none

/-- `validate` of R180, WPAGE. -/
def specPageCause (cfg : Config) (q : Args) : Option Cause :=
  if q.bufp = false then some .invalidArgument
  else if q.len.toNat = 0 then some .invalidArgument
  else if cfg.chipSize < q.addr.toNat + q.len.toNat then some .outOfRange
  else if cfg.pageSize < q.len.toNat then some .invalidArgument
  else if cfg.pageSize < q.addr.toNat % cfg.pageSize + q.len.toNat then some .invalidArgument
  else none

/-- `validate` of R180, ESECT, EB32 and EB64. -/
def specEraseCause (cfg : Config) (q : Args) : Option Cause :=
  if cfg.chipSize ≤ q.addr.toNat then some .outOfRange else none

/-- `validate` of R180 per request; a wire frame is not validated. -/
def specCause (cfg : Config) (init : Bool) : Instr → Option Cause
  | .reqInit _ => none
  | .reqRead q => specDataCause cfg q
  | .reqFread q => specDataCause cfg q
  | .reqWpage q => specPageCause cfg q
  | .reqWrite q => specDataCause cfg q
  | .reqEsect q => specEraseCause cfg q
  | .reqEb32 q => specEraseCause cfg q
  | .reqEb64 q => specEraseCause cfg q
  | .reqEchip _ => none
  | .reqInfo _ => if init = false then some .notInitialized else none
  | .reservedAB _ _ => some .invalidArgument
  | .reservedCF _ _ => some .invalidArgument
  | .wren => none
  | .rdsr => none
  | .read _ _ => none
  | .fastRead _ _ => none
  | .pp _ _ => none
  | .se _ => none
  | .be32 _ => none
  | .be64 _ => none
  | .ce => none
  | .rdjdid => none
  | .rdid => none
  | .rduid => none

/-- The unit erases: request, code, wire opcode, unit size, WAIT_COMPLETE budget (42_operations.md R186 to R188;
41_sequencer.md R156). -/
def unitErases (cfg : Config) (q : Args) : List (Instr × BitVec 4 × Byte × Nat × U32) :=
  [ (.reqEsect q, 0x5, 0x20, cfg.sectorSize, cfg.tSeMs),
    (.reqEb32 q, 0x6, 0x52, cfg.block32Size, cfg.tBe32Ms),
    (.reqEb64 q, 0x7, 0xD8, cfg.block64Size, cfg.tBe64Ms) ]

/-- The programs and erases of one command: request, code, the Transfers of the command window, the WAIT_COMPLETE
budget, and the flash bytes the command could reach (42_operations.md R184, R186 to R189; 20_memory.md R73). -/
def oneCommand (cfg : Config) (q : Args) : List (Instr × BitVec 4 × List (List Byte) × U32 × Span) :=
  [ (.reqWpage q, 0x3, [0x02 :: wireAddr q.addr, q.wdata], cfg.tPpMs, ⟨q.addr.toNat, q.len.toNat⟩),
    (.reqEchip q, 0x8, [[0xC7]], cfg.tCeMs, ⟨0, cfg.chipSize⟩) ] ++
  (unitErases cfg q).map fun e =>
    let unit := e.2.2.2.1
    let a := q.addr.toNat / unit * unit
    (e.1, e.2.1, [e.2.2.1 :: wireAddr (BitVec.ofNat 32 a)], e.2.2.2.2, ⟨a, unit⟩)

/-- The reads: request, code, the header they send (42_operations.md R182, R183). -/
def readHeaders (cfg : Config) (q : Args) : List (Instr × BitVec 4 × List Byte) :=
  [ (.reqRead q, 0x1, 0x03 :: wireAddr q.addr),
    (.reqFread q, 0x2, 0x0B :: (wireAddr q.addr ++ [cfg.filler])) ]

/-- The state in which an instruction's own events begin: accepted. -/
def begun (i : Instr) (s : State) : State :=
  match requestOf s.cfg i with
  | some r => accept r s
  | none => acceptFrame i s

/-- The acceptance event of an instruction. -/
def acceptance (cfg : Config) (i : Instr) : Event :=
  match requestOf cfg i with
  | some r => .accept r
  | none => .acceptFrame i

/-- A program or an erase request. -/
def isProgramOrErase : Instr → Bool
  | .reqWpage _ | .reqWrite _ | .reqEsect _ | .reqEb32 _ | .reqEb64 _ | .reqEchip _ => true
  | .wren | .rdsr | .read _ _ | .fastRead _ _ | .pp _ _ | .se _ | .be32 _ | .be64 _ | .ce | .rdjdid | .rdid | .rduid
  | .reqInit _ | .reqRead _ | .reqFread _ | .reqInfo _ | .reservedAB _ _ | .reservedCF _ _ => false

/-- The opcodes that change the flash array (20_memory.md R74). -/
def isChangingOpcode (b : Byte) : Bool := b == 0x02 || b == 0x20 || b == 0x52 || b == 0xD8 || b == 0xC7

end Sys2Proof.Machine

/-! ## Encoding -/

/-- Decoding the encoding of any instruction, with every operand at every value, gives the instruction back: the wire
frames of 30_encoding.md R91, R93, R97 and the request codes of R100, R101. (Ill-formed instructions included.) -/
def Obligations.DecodeOfEncodeIsTheInstruction : Prop :=
  ∀ (cfg : Config) (i : Instr), decode (encode cfg i) = .ok i

/-- 30_encoding.md R99: an opcode other than the twelve is refused, whatever follows it. -/
def Obligations.UnknownOpcodeIsRefused : Prop :=
  ∀ (op : Byte) (rest : List Byte),
    op ∉ ([0x06, 0x05, 0x03, 0x0B, 0x02, 0x20, 0x52, 0xD8, 0xC7, 0x9F, 0x90, 0x4B] : List Byte) →
    decodeFrame (op :: rest) = .error (.unknownOpcode op)

/-- Words written out from the encoding tables decode to the instructions they stand for (30_encoding.md R97, R100). How
a request word is told from a frame word is the model's choice (log 6). -/
def Obligations.TableWordsDecode : Prop :=
  decodeTableWord 8 0x06 = some .wren ∧ decodeTableWord 8 0xD8 = some (.be64 0) ∧
  decodeTableWord 8 0x9F = some .rdjdid ∧ decodeTableWord 8 0x4B = some .rduid ∧
  decodeTableWord 32 0x00100020 = some (.se 0x001000) ∧
  decodeTableWord 8 0x04 = some (.reqWrite { addr := 0, len := 0, bufp := false, wdata := [] }) ∧
  decodeTableWord 8 0x09 = some (.reqInfo { addr := 0, len := 0, bufp := false, wdata := [] })

/-- 40_encoder.md R121: `addrFrame` sends the opcode, `a[23:16]`, `a[15:8]`, `a[7:0]` and `k` fillers, dropping the
bits of `a` above bit 23. The bytes are said by division. -/
def Obligations.AddrFrameIsOpcodeAddressDummies : Prop :=
  ∀ (cfg : Config) (op : Byte) (a k : Nat),
    addrFrame cfg op a k =
      [op, BitVec.ofNat 8 (a / 65536), BitVec.ofNat 8 (a / 256), BitVec.ofNat 8 a] ++ List.replicate k cfg.filler

/-- 40_encoder.md R134: BUSY is bit 0 and WEL bit 1 of the response's second byte; nothing else of the response
matters. -/
def Obligations.StatusDecodesBits0And1 : Prop :=
  ∀ (x b : Byte), decodeStatus [x, b] = (b.getLsbD 0, b.getLsbD 1)

/-- 40_encoder.md R135: the identity is response bytes 1, 2 and 3, and the check looks at bytes 1 and 3 only. -/
def Obligations.IdentityDecodesBytes1To3 : Prop :=
  ∀ (cfg : Config) (x m t c : Byte), decodeIdentity [x, m, t, c] = (m, t, c) ∧
    (idOk cfg [x, m, t, c] = true ↔ m = cfg.expMfr ∧ c = cfg.expCap)

/-- 40_encoder.md R136: of a response of 13 bytes the unique id is bytes 5 to 12, in received order. -/
def Obligations.UidDecodesFromByte5 : Prop :=
  ∀ (x0 x1 x2 x3 x4 : Byte) (id : List Byte), id.length = 8 →
    decodeUid (x0 :: x1 :: x2 :: x3 :: x4 :: id) = id

/-- 40_encoder.md R137: the device-id bytes are response bytes 4 and 5. -/
def Obligations.DeviceIdDecodesBytes4And5 : Prop :=
  ∀ (x0 x1 x2 x3 d e : Byte), decodeDeviceId [x0, x1, x2, x3, d, e] = (d, e)

/-- 30_encoding.md R96: the identity is response bytes 1 to 3 and the combined id is `(MFR << 16) | (TYPE << 8) | CAP`,
which for the expected device is 0x9D6013. -/
def Obligations.JedecIdIsThreeBytesCombined : Prop :=
  (∀ (x m t c : Byte), decodeIdentity [x, m, t, c] = (m, t, c) ∧
    (jedecId m t c).toNat = m.toNat * 65536 + t.toNat * 256 + c.toNat) ∧
  jedecId 0x9D 0x60 0x13 = 0x9D6013

/-! ## The step -/

/-- 41_sequencer.md R150: in IDLE, with no reset asserted and the bus the block's own, the step takes the oldest offer
off the inbox and runs the instruction it decodes to: all of it, or, where the block is taken one event at a time, its
acceptance. That there are these two grains is the model's choice (log 3), and so is the oldest first (log 28). -/
def Obligations.StepRunsTheDecodedInstruction : Prop :=
  ∀ (s : State) (o : Offer) (rest : List Offer) (i : Instr),
    s.resetLine = false → s.phase = .idle → s.inbox = o :: rest → decode o = .ok i → i.wf s.cfg = true →
    s.foreignWindow = false →
    (s.byEvents = false → step s = exec i { s with inbox := rest }) ∧
    (s.byEvents = true → step s = .next (begun i { s with inbox := rest }))

/-- 30_encoding.md R102: a request that is not well-formed is refused, not run. -/
def Obligations.MalformedRequestIsRefused : Prop :=
  ∀ (s : State) (r : Request) (rest : List Offer),
    s.resetLine = false → s.phase = .idle → s.inbox = .request r :: rest →
    ¬ (if (r.op = 0x3 ∨ r.op = 0x4) ∧ r.bufp = true then r.wdata.length = r.len.toNat else r.wdata = []) →
    step s = .refused .malformedRequest

/-- 41_sequencer.md R150: while PHASE is not IDLE no request is accepted: the offers stay as they are, whatever the
step does, and the meaning of an instruction changes nothing. -/
def Obligations.NothingIsAcceptedWhileBusy : Prop :=
  ∀ (s : State), s.phase ≠ .idle →
    (∀ i : Instr, exec i s = .next s) ∧ (∀ t, step s = .next t → t.inbox = s.inbox)

/-- 60_exceptions.md R245: with another block's window open on the bus, a step that has an operation to run or in
progress is a fault. -/
def Obligations.InterleavedWindowIsAFault : Prop :=
  ∀ (s : State), s.resetLine = false → s.foreignWindow = true →
    (s.phase ≠ .idle → step s = .fault .interleavedWindow) ∧
    (∀ o rest i, s.phase = .idle → s.inbox = o :: rest → decode o = .ok i → i.wf s.cfg = true →
      step s = .fault .interleavedWindow)

/-- 00_scope.md R8: where the block is taken one event at a time, a step makes at most one interface event. -/
def Obligations.OneEventPerStep : Prop :=
  ∀ (s t : State), s.byEvents = true → step s = .next t → ∃ es, t.trace = s.trace ++ es ∧ es.length ≤ 1

/-- 41_sequencer.md R164: where the block is taken one event at a time, with no reset and no foreign window, the steps
from an offer at hand come to exactly the state the meaning answers. (The meaning as a whole is log 3.) -/
def Obligations.StepsByEventReachTheMeaning : Prop :=
  ∀ (s : State) (o : Offer) (rest : List Offer) (i : Instr),
    s.resetLine = false → s.phase = .idle → s.inbox = o :: rest → decode o = .ok i → i.wf s.cfg = true →
    s.foreignWindow = false → s.byEvents = true →
    ∃ n, Sys2Proof.core.run n s = exec i { s with inbox := rest }

/-- 00_scope.md R11: the configuration at reset meets the constraints, and no step changes the configuration
(10_state.md R30), so they hold in every state that a run from reset comes to. -/
def Obligations.ConfigurationStaysValid : Prop :=
  State.reset.cfg.Valid ∧ ∀ s t : State, step s = .next t → t.cfg = s.cfg

/-- Every instruction's meaning answers a next state in every state: no ordinary data ends a run
(60_exceptions.md R230, R234: an error is a response, not a stop). -/
def Obligations.EveryMeaningAnswersANextState : Prop :=
  ∀ (i : Instr) (s : State), ∃ t, exec i s = .next t

/-- 70_reset_and_hazards.md R260: the state after reset, in the fields the rule gives a value. -/
def Obligations.ResetStateIsAsStated : Prop :=
  State.reset.phase = .idle ∧ State.reset.init = false ∧ State.reset.cs = false ∧ State.reset.cause = .none ∧
  State.reset.rdata = [] ∧ State.reset.info = [] ∧ State.reset.trace = [.select false]

/-- 70_reset_and_hazards.md R261: reset in any phase abandons the operation: the state of R260 in the fields it gives,
one `Select(false)`, and no response. That the flash, the configuration and the offers not yet accepted are no part of
what is abandoned is log 12; where reset is sampled is log 14. -/
def Obligations.ResetAbandonsTheOperation : Prop :=
  ∀ (s : State), s.resetLine = true →
    ∃ t, step s = .next t ∧ t.phase = .idle ∧ t.init = false ∧ t.cs = false ∧ t.cause = .none ∧ t.rdata = [] ∧
      t.info = [] ∧ t.pos = .start ∧ t.job = none ∧ t.resetLine = false ∧ t.trace = s.trace ++ [.select false] ∧
      t.cfg = s.cfg ∧ t.inbox = s.inbox

/-! ## Wire frames -/

/-- 40_encoder.md R122, R123, R127 to R131, R133, each as one window of 41_sequencer.md R151 (run by itself, log 4 and
5): with the Transfer answered, the frame completes, and this is all it changes. -/
def Obligations.OneWindowFramesComplete : Prop :=
  ∀ (s : State) (a : BitVec 24) (i : Instr) (tx : List Byte) (field : List Byte → List Byte) (rx : List Byte)
    (xs : List XferAnswer),
    (i, tx, field) ∈ oneWindowFrames s.cfg a → s.phase = .idle → s.xfers = .ok rx :: xs → rx.length = tx.length →
    exec i s = .next { s with
      cs := false
      cause := .none
      rdata := []
      info := []
      pos := .start
      job := none
      frameRx := field rx
      frameTx := tx
      sr := if i = .rdsr then rxAt rx 1 else s.sr
      xfers := xs
      trace := s.trace ++ ([.acceptFrame i] ++ windowEvents [tx] [rx] ++ [okResponse [] []]) }

/-- 40_encoder.md R124, R125, R126, each as one window of two Transfers (41_sequencer.md R152), header and body. -/
def Obligations.TwoPartFramesComplete : Prop :=
  ∀ (s : State) (a : BitVec 24) (n : Nat) (p : List Byte) (i : Instr) (hdr body : List Byte)
    (field : List Byte → List Byte) (r1 r2 : List Byte) (xs : List XferAnswer),
    (i, hdr, body, field) ∈ twoPartFrames s.cfg a n p → s.phase = .idle →
    s.xfers = .ok r1 :: .ok r2 :: xs → r1.length = hdr.length → r2.length = body.length →
    exec i s = .next { s with
      cs := false
      cause := .none
      rdata := []
      info := []
      pos := .start
      job := none
      frameRx := field r2
      frameTx := hdr ++ body
      xfers := xs
      trace := s.trace ++ ([.acceptFrame i] ++ windowEvents [hdr, body] [r1, r2] ++ [okResponse [] []]) }

/-- 40_encoder.md R132, decision D31: Read Device ID by itself is built and never put on the bus: its bytes, no window.
That it then responds is log 5. -/
def Obligations.ReadDeviceIdIsBuiltAndNotIssued : Prop :=
  ∀ (s : State), s.phase = .idle →
    exec .rdid s = .next { s with
      cause := .none
      rdata := []
      info := []
      pos := .start
      job := none
      frameRx := []
      frameTx := [0x90, 0x00, 0x00, 0x00, s.cfg.filler, s.cfg.filler]
      trace := s.trace ++ [.acceptFrame .rdid, okResponse [] []] }

/-- 41_sequencer.md R151, R152; 60_exceptions.md R234: a wire frame on the bus whose first or second Transfer faults
closes its window and ends with Error(TransportFault); a part after the fault is not sent. (Read Device ID makes no
Transfer.) -/
def Obligations.FaultedFrameClosesItsWindow : Prop :=
  ∀ (s : State) (i : Instr) (rxs : List (List Byte)) (xs : List XferAnswer),
    isRequest i = false → i ≠ .rdid → answersBegin (wireParts s.cfg i) rxs → s.phase = .idle →
    s.xfers = rxs.map .ok ++ .fault :: xs →
    exec i s = .next { s with
      cs := false
      cause := .transportFault
      rdata := []
      info := []
      pos := .start
      job := none
      frameRx := []
      frameTx := (wireParts s.cfg i).flatten
      xfers := xs
      unknownFlash := s.unknownFlash ++ frameReach s.cfg i
      trace := s.trace ++ ([.acceptFrame i] ++ faultEvents (wireParts s.cfg i) rxs ++
        [errorResponse .transportFault]) }

/-! ## Requests: validation -/

/-- 42_operations.md R180 and R194: a request that fails a check ends at once with the first failing check's cause;
its only events are the acceptance and the response, and nothing but `REQ`, `CAUSE` and the emptied response latch
changes. `specCause` writes the checks out from R180. -/
def Obligations.FailedValidationMakesNoTraffic : Prop :=
  ∀ (s : State) (i : Instr) (r : Request) (c : Cause),
    s.phase = .idle → requestOf s.cfg i = some r → specCause s.cfg s.init i = some c →
    exec i s = .next { s with
      req := r
      cause := c
      rdata := []
      info := []
      pos := .start
      job := none
      trace := s.trace ++ [.accept r, errorResponse c] }

/-- 42_operations.md R191, R101: a reserved code, of either row, is answered Error(InvalidArgument) with no interface
event between acceptance and response. -/
def Obligations.ReservedCodesAnswerInvalidArgument : Prop :=
  ∀ (s : State) (i : Instr) (r : Request) (q : Args) (b : BitVec 1) (c : BitVec 2),
    s.phase = .idle →
    (i, r) ∈ [(Instr.reservedAB b q, mkRequest (0b101#3 ++ b) q), (Instr.reservedCF c q, mkRequest (0b11#2 ++ c) q)] →
    exec i s = .next { s with
      req := r
      cause := .invalidArgument
      rdata := []
      info := []
      pos := .start
      job := none
      trace := s.trace ++ [.accept r, errorResponse .invalidArgument] }

/-! ## Requests: identification -/

/-- 42_operations.md R181: INIT with both frames answered and the identity as expected. -/
def Obligations.InitCachesIdentityAndUid : Prop :=
  ∀ (s : State) (q : Args) (rx ru : List Byte) (xs : List XferAnswer),
    s.phase = .idle → s.xfers = .ok rx :: .ok ru :: xs → rx.length = 4 → ru.length = 13 →
    rxAt rx 1 = s.cfg.expMfr → rxAt rx 3 = s.cfg.expCap →
    exec (.reqInit q) s = .next { s with
      init := true
      idMfr := rxAt rx 1
      idType := rxAt rx 2
      idCap := rxAt rx 3
      uid := (ru.drop 5).take 8
      cs := false
      req := mkRequest 0x0 q
      cause := .none
      rdata := []
      info := []
      pos := .start
      job := none
      xfers := xs
      trace := s.trace ++ ([.accept (mkRequest 0x0 q), .select false] ++
        windowEvents [[0x9F, s.cfg.filler, s.cfg.filler, s.cfg.filler]] [rx] ++
        windowEvents [0x4B :: List.replicate 12 s.cfg.filler] [ru] ++ [okResponse [] []]) }

/-- 42_operations.md R181, 60_exceptions.md R231: INIT with another identity: IdentityMismatch, no unique-id window,
the cache as it was, and the handle marked not initialized. -/
def Obligations.InitMismatchLeavesNotInitialized : Prop :=
  ∀ (s : State) (q : Args) (rx : List Byte) (xs : List XferAnswer),
    s.phase = .idle → s.xfers = .ok rx :: xs → rx.length = 4 →
    ¬ (rxAt rx 1 = s.cfg.expMfr ∧ rxAt rx 3 = s.cfg.expCap) →
    exec (.reqInit q) s = .next { s with
      init := false
      cs := false
      req := mkRequest 0x0 q
      cause := .identityMismatch
      rdata := []
      info := []
      pos := .start
      job := none
      xfers := xs
      trace := s.trace ++ ([.accept (mkRequest 0x0 q), .select false] ++
        windowEvents [[0x9F, s.cfg.filler, s.cfg.filler, s.cfg.filler]] [rx] ++ [errorResponse .identityMismatch]) }

/-- 42_operations.md R181: after any error INIT = 0, and INIT = 1 only after an Ok: whatever the host answers. -/
def Obligations.InitIsSetExactlyOnOk : Prop :=
  ∀ (s t : State) (q : Args), s.phase = .idle → exec (.reqInit q) s = .next t →
    (t.init = true ↔ t.phase = .idle ∧ t.cause = .none) ∧
    (t.init = true → t.idMfr = s.cfg.expMfr ∧ t.idCap = s.cfg.expCap)

/-- 42_operations.md R190: INFO on an initialized handle re-reads the unique id and returns it with the cached triple,
with no status poll. -/
def Obligations.InfoReturnsTripleAndFreshUid : Prop :=
  ∀ (s : State) (q : Args) (ru : List Byte) (xs : List XferAnswer),
    s.phase = .idle → s.init = true → s.xfers = .ok ru :: xs → ru.length = 13 →
    exec (.reqInfo q) s = .next { s with
      uid := (ru.drop 5).take 8
      cs := false
      req := mkRequest 0x9 q
      cause := .none
      rdata := []
      info := [s.idMfr, s.idType, s.idCap] ++ (ru.drop 5).take 8
      pos := .start
      job := none
      xfers := xs
      trace := s.trace ++ ([.accept (mkRequest 0x9 q)] ++
        windowEvents [0x4B :: List.replicate 12 s.cfg.filler] [ru] ++
        [okResponse [] ([s.idMfr, s.idType, s.idCap] ++ (ru.drop 5).take 8)]) }

/-- 42_operations.md R190: a transport fault on INFO leaves UID, and all of the handle, unchanged. -/
def Obligations.InfoFaultLeavesTheHandle : Prop :=
  ∀ (s : State) (q : Args) (xs : List XferAnswer),
    s.phase = .idle → s.init = true → s.xfers = .fault :: xs →
    ∃ t, exec (.reqInfo q) s = .next t ∧ SameHandle s t ∧ t.phase = .idle ∧ t.cs = false ∧
      t.cause = .transportFault ∧ t.info = [] ∧
      t.trace = s.trace ++ [.accept (mkRequest 0x9 q), .select true,
        .transfer (0x4B :: List.replicate 12 s.cfg.filler) none, .select false,
        errorResponse .transportFault]

/-! ## Requests: reads -/

/-- 42_operations.md R182, R183: READ and FREAD that pass their checks, with a wait that succeeds after any number of
busy polls and both Transfers answered, return the bytes received in the receive phase. -/
def Obligations.ReadsReturnTheReceivedBytes : Prop :=
  ∀ (s : State) (q : Args) (i : Instr) (op : BitVec 4) (hdr : List Byte) (w : WaitScript) (r1 r2 : List Byte)
    (xs : List XferAnswer) (ms : List U32),
    (i, op, hdr) ∈ [(Instr.reqRead q, (0x1 : BitVec 4), (0x03 : Byte) :: wireAddr q.addr),
      (Instr.reqFread q, (0x2 : BitVec 4), (0x0B : Byte) :: (wireAddr q.addr ++ [s.cfg.filler]))] →
    s.phase = .idle → q.bufp = true → q.len.toNat ≠ 0 → q.addr.toNat + q.len.toNat ≤ s.cfg.chipSize →
    w.Good s.cfg.tReadyMs → s.xfers = w.answers ++ .ok r1 :: .ok r2 :: xs → s.millis = w.readings ++ ms →
    r1.length = hdr.length → r2.length = q.len.toNat →
    exec i s = .next { s with
      cs := false
      req := mkRequest op q
      addr := q.addr
      len := q.len
      t0 := w.t0
      tbudget := s.cfg.tReadyMs
      sr := rxAt w.last 1
      cause := .none
      rdata := r2
      info := []
      pos := .start
      job := none
      xfers := xs
      millis := ms
      trace := s.trace ++ ([.accept (mkRequest op q)] ++ w.events s.cfg ++
        windowEvents [hdr, List.replicate q.len.toNat s.cfg.filler] [r1, r2] ++ [okResponse r2 []]) }

/-- 42_operations.md R182, R183; 20_memory.md R74: READ and FREAD that pass their checks and fail, in the wait after any
number of busy polls or in either Transfer of the command window, end with that cause, no data, and nothing unknown. -/
def Obligations.ReadFailureLeavesNothingUnknown : Prop :=
  ∀ (s : State) (q : Args) (i : Instr) (op : BitVec 4) (hdr : List Byte) (f : FailedRead) (xs : List XferAnswer)
    (ms : List U32),
    (i, op, hdr) ∈ readHeaders s.cfg q → s.phase = .idle → specCause s.cfg s.init i = none →
    f.Fails s.cfg [hdr, List.replicate q.len.toNat s.cfg.filler] →
    s.xfers = f.answers ++ xs → s.millis = f.readings ++ ms →
    ∃ t, exec i s = .next t ∧ t.phase = .idle ∧ t.cs = false ∧ t.cause = f.cause ∧ t.rdata = [] ∧ t.info = [] ∧
      t.req = mkRequest op q ∧ t.xfers = xs ∧ t.millis = ms ∧ SameHandle s t ∧ SameOutside s t ∧
      t.unknownFlash = s.unknownFlash ∧
      t.trace = s.trace ++ ([.accept (mkRequest op q)] ++
        f.events s.cfg [hdr, List.replicate q.len.toNat s.cfg.filler] ++ [errorResponse f.cause])

/-! ## Requests: programs -/

/-- 42_operations.md R184: WPAGE that passes its checks programs its data in one frame and completes. -/
def Obligations.WritePageProgramsInOneFrame : Prop :=
  ∀ (s : State) (q : Args) (c : CommandScript) (xs : List XferAnswer) (ms : List U32),
    s.phase = .idle → q.bufp = true → q.wdata.length = q.len.toNat → q.len.toNat ≠ 0 →
    q.addr.toNat + q.len.toNat ≤ s.cfg.chipSize → q.len.toNat ≤ s.cfg.pageSize →
    q.addr.toNat % s.cfg.pageSize + q.len.toNat ≤ s.cfg.pageSize →
    c.Good s.cfg s.cfg.tPpMs [0x02 :: wireAddr q.addr, q.wdata] →
    s.xfers = c.answers ++ xs → s.millis = c.readings ++ ms →
    exec (.reqWpage q) s = .next { s with
      cs := false
      req := mkRequest 0x3 q
      addr := q.addr
      len := q.len
      t0 := c.complete.t0
      tbudget := s.cfg.tPpMs
      sr := rxAt c.complete.last 1
      cause := .none
      rdata := []
      info := []
      pos := .start
      job := none
      xfers := xs
      millis := ms
      trace := s.trace ++ ([.accept (mkRequest 0x3 q)] ++
        c.events s.cfg [0x02 :: wireAddr q.addr, q.wdata] ++ [okResponse [] []]) }

/-- 42_operations.md R185: WRITE that passes its checks runs the program phases once for every chunk of R192, in
order, each with its piece of the data, and completes. -/
def Obligations.WriteProgramsEveryChunk : Prop :=
  ∀ (s : State) (q : Args) (cs : List CommandScript) (c : CommandScript) (xs : List XferAnswer) (ms : List U32),
    s.cfg.Valid → s.phase = .idle → q.bufp = true → q.wdata.length = q.len.toNat → q.len.toNat ≠ 0 →
    q.addr.toNat + q.len.toNat ≤ s.cfg.chipSize →
    WriteScript.Good s.cfg (chunkPieces s.cfg q.addr.toNat q.wdata) (cs ++ [c]) →
    s.xfers = (cs ++ [c]).flatMap CommandScript.answers ++ xs →
    s.millis = (cs ++ [c]).flatMap CommandScript.readings ++ ms →
    exec (.reqWrite q) s = .next { s with
      cs := false
      req := mkRequest 0x4 q
      addr := q.addr + q.len
      len := BitVec.ofNat 32 (((chunkPieces s.cfg q.addr.toNat q.wdata).getLast?.map (·.2.length)).getD 0)
      rem := 0
      off := q.len
      t0 := c.complete.t0
      tbudget := s.cfg.tPpMs
      sr := rxAt c.complete.last 1
      cause := .none
      rdata := []
      info := []
      pos := .start
      job := none
      xfers := xs
      millis := ms
      trace := s.trace ++ ([.accept (mkRequest 0x4 q)] ++
        writeEvents s.cfg (chunkPieces s.cfg q.addr.toNat q.wdata) (cs ++ [c]) ++ [okResponse [] []]) }

/-- 42_operations.md R192: what the chunks are, and (a) to (f), the split law. -/
def Obligations.SplitLaw : Prop :=
  ∀ (cfg : Config) (a : Nat) (d : List Byte), 1 ≤ cfg.pageSize → 1 ≤ d.length →
    let cs := chunks cfg d.length a d.length
    (cs.map Prod.snd).sum = d.length ∧
    (∀ p ∈ cs, pageFits cfg p.1 p.2 = true) ∧
    (∀ p ∈ cs.tail, p.1 % cfg.pageSize = 0) ∧
    (∀ p ∈ cs.tail.dropLast, p.2 = cfg.pageSize) ∧
    cs.length = (a % cfg.pageSize + d.length + cfg.pageSize - 1) / cfg.pageSize ∧
    cs.head?.map Prod.fst = some a ∧
    (∀ k, (h : k + 1 < cs.length) → (cs[k + 1]).1 = (cs[k]).1 + (cs[k]).2) ∧
    (∀ k, (h : k < cs.length) →
      (cs[k]).2 = chunkLen cfg (cs[k]).1 (d.length - ((cs.take k).map Prod.snd).sum)) ∧
    (cs.map fun p => (d.drop (p.1 - a)).take p.2).flatten = d

/-! ## Requests: erases -/

/-- 42_operations.md R186 to R188, R193: a unit erase of an address in range sends its frame with the address snapped
down to its unit, and completes. -/
def Obligations.UnitErasesEraseTheAlignedUnit : Prop :=
  ∀ (s : State) (q : Args) (i : Instr) (op : BitVec 4) (code : Byte) (g : Nat) (budget : U32) (c : CommandScript)
    (xs : List XferAnswer) (ms : List U32),
    (i, op, code, g, budget) ∈ unitErases s.cfg q → s.phase = .idle → q.addr.toNat < s.cfg.chipSize →
    c.Good s.cfg budget [code :: wireAddr (BitVec.ofNat 32 (q.addr.toNat / g * g))] →
    s.xfers = c.answers ++ xs → s.millis = c.readings ++ ms →
    exec i s = .next { s with
      cs := false
      req := mkRequest op q
      addr := BitVec.ofNat 32 (q.addr.toNat / g * g)
      t0 := c.complete.t0
      tbudget := budget
      sr := rxAt c.complete.last 1
      cause := .none
      rdata := []
      info := []
      pos := .start
      job := none
      xfers := xs
      millis := ms
      trace := s.trace ++ ([.accept (mkRequest op q)] ++
        c.events s.cfg [code :: wireAddr (BitVec.ofNat 32 (q.addr.toNat / g * g))] ++ [okResponse [] []]) }

/-- 42_operations.md R189: ECHIP ignores its operands, sends the one byte 0xC7, and completes. -/
def Obligations.ChipEraseSendsOneByte : Prop :=
  ∀ (s : State) (q : Args) (c : CommandScript) (xs : List XferAnswer) (ms : List U32),
    s.phase = .idle → c.Good s.cfg s.cfg.tCeMs [[0xC7]] → s.xfers = c.answers ++ xs → s.millis = c.readings ++ ms →
    exec (.reqEchip q) s = .next { s with
      cs := false
      req := mkRequest 0x8 q
      t0 := c.complete.t0
      tbudget := s.cfg.tCeMs
      sr := rxAt c.complete.last 1
      cause := .none
      rdata := []
      info := []
      pos := .start
      job := none
      xfers := xs
      millis := ms
      trace := s.trace ++ ([.accept (mkRequest 0x8 q)] ++ c.events s.cfg [[0xC7]] ++ [okResponse [] []]) }

/-- 20_memory.md R68: `alignDown` and its properties. -/
def Obligations.AlignDownProperties : Prop :=
  ∀ (a g size : Nat), 1 ≤ g →
    alignDown a g = a / g * g ∧ alignDown a g ≤ a ∧ a - alignDown a g < g ∧ alignDown a g % g = 0 ∧
    (a < size → alignDown a g < size)

/-- 20_memory.md R69: `chunkLen`, its bounds, and that every chunk passes `pageFits`. -/
def Obligations.ChunkLenFitsThePage : Prop :=
  ∀ (cfg : Config) (a rem : Nat), 1 ≤ cfg.pageSize → 1 ≤ rem →
    chunkLen cfg a rem = min rem (cfg.pageSize - a % cfg.pageSize) ∧
    1 ≤ chunkLen cfg a rem ∧ chunkLen cfg a rem ≤ cfg.pageSize ∧
    a % cfg.pageSize + chunkLen cfg a rem ≤ cfg.pageSize ∧ chunkLen cfg a rem ≤ rem ∧
    pageFits cfg a (chunkLen cfg a rem) = true

/-! ## Waiting, errors, atomicity -/

/-- 41_sequencer.md R155 (a), "not before": a run that ends in Timeout made, as its last event before the response, a
`Millis()` reading at least TBUDGET after T0, modulo 2^32. -/
def Obligations.TimeoutNotBefore : Prop :=
  ∀ (i : Instr) (s t : State), s.phase = .idle → exec i s = .next t → t.phase = .idle → t.cause = .timeout →
    ∃ before now, t.trace = before ++ [.millis now, errorResponse .timeout] ∧
      t.tbudget.toNat ≤ (now.toNat + 2 ^ 32 - t.t0.toNat) % 2 ^ 32

/-- 41_sequencer.md R154, R156; 20_memory.md R73: a unit erase whose polls after the command find BUSY until the
budget has elapsed ends in Timeout, and leaves the whole aligned unit unknown. -/
def Obligations.EraseTimeoutLeavesTheUnitUnknown : Prop :=
  ∀ (s : State) (q : Args) (i : Instr) (op : BitVec 4) (code : Byte) (g : Nat) (budget : U32) (ready : WaitScript)
    (wren cmd : List Byte) (t0 : U32) (busy : List BusyPoll) (p : BusyPoll) (xs : List XferAnswer) (ms : List U32),
    (i, op, code, g, budget) ∈ unitErases s.cfg q → s.phase = .idle → q.addr.toNat < s.cfg.chipSize →
    ready.Good s.cfg.tReadyMs → wren.length = 1 → cmd.length = 4 →
    (∀ b ∈ busy, b.rx.length = 2 ∧ busyFlag (rxAt b.rx 1) = true ∧ timedOut t0 budget b.now = false) →
    p.rx.length = 2 → busyFlag (rxAt p.rx 1) = true → timedOut t0 budget p.now = true →
    s.xfers = ready.answers ++ .ok wren :: .ok cmd :: (busy.map (fun b => .ok b.rx) ++ .ok p.rx :: xs) →
    s.millis = ready.readings ++ t0 :: (busy.map BusyPoll.now ++ p.now :: ms) →
    ∃ t, exec i s = .next t ∧ t.phase = .idle ∧ t.cs = false ∧ t.cause = .timeout ∧ t.xfers = xs ∧ t.millis = ms ∧
      t.addr = BitVec.ofNat 32 (q.addr.toNat / g * g) ∧ t.t0 = t0 ∧ t.tbudget = budget ∧ t.sr = rxAt p.rx 1 ∧
      SameHandle s t ∧ SameOutside s t ∧
      t.unknownFlash = s.unknownFlash ++ [⟨(BitVec.ofNat 32 (q.addr.toNat / g * g)).toNat, g⟩] ∧
      t.trace = s.trace ++ ([.accept (mkRequest op q)] ++ ready.events s.cfg ++
        windowEvents [[0x06]] [wren] ++
        windowEvents [code :: wireAddr (BitVec.ofNat 32 (q.addr.toNat / g * g))] [cmd] ++ [.millis t0] ++
        busy.flatMap (fun b => windowEvents [[0x05, s.cfg.filler]] [b.rx] ++ [.millis b.now, .sleep s.cfg.pollMs]) ++
        windowEvents [[0x05, s.cfg.filler]] [p.rx] ++ [.millis p.now, errorResponse .timeout])

/-- 60_exceptions.md R233 (c): a transport fault on a poll of WAIT_READY, after any number of busy polls, is
TransportFault, whatever the counter would read. -/
def Obligations.PollFaultIsTransportFault : Prop :=
  ∀ (s : State) (q : Args) (op : BitVec 4) (i : Instr) (t0 : U32) (busy : List BusyPoll) (xs : List XferAnswer)
    (ms : List U32),
    (i, op) ∈ [(Instr.reqRead q, (0x1 : BitVec 4)), (Instr.reqFread q, 0x2), (Instr.reqWpage q, 0x3),
      (Instr.reqWrite q, 0x4), (Instr.reqEsect q, 0x5), (Instr.reqEb32 q, 0x6), (Instr.reqEb64 q, 0x7),
      (Instr.reqEchip q, 0x8)] →
    s.phase = .idle → specCause s.cfg s.init i = none →
    (∀ b ∈ busy, b.rx.length = 2 ∧ busyFlag (rxAt b.rx 1) = true ∧ timedOut t0 s.cfg.tReadyMs b.now = false) →
    s.xfers = busy.map (fun b => .ok b.rx) ++ .fault :: xs → s.millis = t0 :: (busy.map BusyPoll.now ++ ms) →
    ∃ t, exec i s = .next t ∧ t.phase = .idle ∧ t.cs = false ∧ t.cause = .transportFault ∧ t.millis = ms ∧
      t.xfers = xs ∧ t.unknownFlash = s.unknownFlash ∧ SameHandle s t ∧ SameOutside s t ∧
      t.trace = s.trace ++ ([.accept (mkRequest op q), .millis t0] ++
        busy.flatMap (fun b => windowEvents [[0x05, s.cfg.filler]] [b.rx] ++ [.millis b.now, .sleep s.cfg.pollMs]) ++
        [.select true, .transfer [0x05, s.cfg.filler] none, .select false, errorResponse .transportFault])

/-- 41_sequencer.md R151, R152, R154; 60_exceptions.md R234: a run that ends in TransportFault made, as its last events
before the response, a Transfer that faulted and the `Select(false)` that closes its window. -/
def Obligations.TransportFaultFollowsAFailedTransfer : Prop :=
  ∀ (i : Instr) (s t : State), s.phase = .idle → exec i s = .next t → t.phase = .idle → t.cause = .transportFault →
    ∃ before tx, t.trace = before ++ [.transfer tx none, .select false, errorResponse .transportFault]

/-- 41_sequencer.md R154, R157, R159; 20_memory.md R73: WPAGE, ECHIP and the unit erases that pass their checks and
fail, in either wait after any number of busy polls (by a fault or by Timeout), in the Write Enable window, or in any
Transfer of the command window, end with that cause; a failure before the command window leaves nothing unknown, and one
in it or after it leaves what the command could reach. (The list of what is unknown is log 11.) -/
def Obligations.CommandFailureLeavesItsReachUnknown : Prop :=
  ∀ (s : State) (q : Args) (i : Instr) (op : BitVec 4) (parts : List (List Byte)) (budget : U32) (reach : Span)
    (f : FailedCommand) (xs : List XferAnswer) (ms : List U32),
    (i, op, parts, budget, reach) ∈ oneCommand s.cfg q → s.phase = .idle → specCause s.cfg s.init i = none →
    f.Fails s.cfg budget parts → s.xfers = f.answers ++ xs → s.millis = f.readings ++ ms →
    ∃ t, exec i s = .next t ∧ t.phase = .idle ∧ t.cs = false ∧ t.cause = f.cause ∧ t.rdata = [] ∧ t.info = [] ∧
      t.req = mkRequest op q ∧ t.xfers = xs ∧ t.millis = ms ∧ SameHandle s t ∧ SameOutside s t ∧
      t.unknownFlash = s.unknownFlash ++ (if f.begun then [reach] else []) ∧
      t.trace = s.trace ++ ([.accept (mkRequest op q)] ++ f.events s.cfg parts ++ [errorResponse f.cause])

/-- 42_operations.md R185, 20_memory.md R73: a multi-page write whose chunk after the scripts `cs` fails, in either
wait, in its Write Enable window or in either Transfer of its Page Program, ends with that cause: the earlier chunks
were programmed, no later chunk is sent, and this chunk's bytes alone are unknown, if its Page Program was begun. (The
list of what is unknown is log 11.) -/
def Obligations.WriteFailureLeavesOnlyItsChunkUnknown : Prop :=
  ∀ (s : State) (q : Args) (done : List (Nat × List Byte)) (piece : Nat × List Byte)
    (todo : List (Nat × List Byte)) (cs : List CommandScript) (f : FailedCommand)
    (xs : List XferAnswer) (ms : List U32),
    s.cfg.Valid → s.phase = .idle → q.bufp = true → q.wdata.length = q.len.toNat → q.len.toNat ≠ 0 →
    q.addr.toNat + q.len.toNat ≤ s.cfg.chipSize →
    chunkPieces s.cfg q.addr.toNat q.wdata = done ++ piece :: todo → WriteScript.Good s.cfg done cs →
    f.Fails s.cfg s.cfg.tPpMs (chunkParts s.cfg piece.1 piece.2) →
    s.xfers = cs.flatMap CommandScript.answers ++ f.answers ++ xs →
    s.millis = cs.flatMap CommandScript.readings ++ f.readings ++ ms →
    ∃ t, exec (.reqWrite q) s = .next t ∧ t.phase = .idle ∧ t.cs = false ∧ t.cause = f.cause ∧
      t.req = mkRequest 0x4 q ∧ t.addr.toNat = piece.1 ∧ t.len.toNat = piece.2.length ∧ t.xfers = xs ∧
      t.millis = ms ∧ SameHandle s t ∧ SameOutside s t ∧
      t.unknownFlash = s.unknownFlash ++ (if f.begun then [⟨piece.1, piece.2.length⟩] else []) ∧
      t.trace = s.trace ++ ([.accept (mkRequest 0x4 q)] ++ writeEvents s.cfg done cs ++
        f.events s.cfg (chunkParts s.cfg piece.1 piece.2) ++ [errorResponse f.cause])

/-- 20_memory.md R77 (d), 41_sequencer.md R157: an Ok of a program or an erase comes right after a poll that found
BUSY = 0. -/
def Obligations.OkOfAProgramFollowsAReadyPoll : Prop :=
  ∀ (i : Instr) (s t : State), isProgramOrErase i = true → s.phase = .idle → exec i s = .next t →
    t.phase = .idle → t.cause = .none →
    ∃ before rx, rx.length = 2 ∧ busyFlag (rxAt rx 1) = false ∧
      t.trace = before ++ windowEvents [[0x05, s.cfg.filler]] [rx] ++ [okResponse [] []]

/-- 60_exceptions.md R230: every operation that ends makes one response, last, whose RESULT is Ok iff CAUSE is 0; before
it come the acceptance and bus and time events only. One that has not ended has made no response and waits for an
answer of the host. For a wire frame run by itself the acceptance event and the response are the model's choice (log 4,
log 5). -/
def Obligations.OneResponsePerOperation : Prop :=
  ∀ (i : Instr) (s : State), s.phase = .idle →
    ∃ t acts, exec i s = .next t ∧ (∀ e ∈ acts, Event.isActivity e = true) ∧
      ((t.phase = .idle ∧ ∃ r : Response, r.cause = t.cause ∧ (r.result = .ok ↔ r.cause = .none) ∧
          t.trace = s.trace ++ (acceptance s.cfg i :: acts ++ [.respond r])) ∨
       (t.phase ≠ .idle ∧ tick t = none ∧ t.trace = s.trace ++ (acceptance s.cfg i :: acts)))

/-- 10_state.md R31 to R33: only INIT and INFO touch the handle, and INFO only UID. -/
def Obligations.OnlyIdentificationTouchesTheHandle : Prop :=
  ∀ (i : Instr) (s t : State), exec i s = .next t → (∀ q, i ≠ .reqInit q) →
    t.init = s.init ∧ t.idMfr = s.idMfr ∧ t.idType = s.idType ∧ t.idCap = s.idCap ∧
    ((∀ q, i ≠ .reqInfo q) → t.uid = s.uid)

/-- 10_state.md R30 (the configuration is not state: "no operation changes it") and what else no instruction touches:
the reset line, the bus flag and the offers. `REQ` is written by acceptance only (R37), so no wire frame changes it. -/
def Obligations.NoInstructionTouchesTheOutside : Prop :=
  ∀ (i : Instr) (s t : State), exec i s = .next t →
    SameOutside s t ∧ (isRequest i = false → t.req = s.req ∧ SameCursor s t ∧ t.t0 = s.t0 ∧ t.tbudget = s.tbudget)

/-- 10_state.md R31 (decision D18): no instruction but INFO reads INIT: with INIT changed before it, it answers the same
state but for INIT itself, which INIT alone writes. -/
def Obligations.OnlyInfoReadsInit : Prop :=
  ∀ (i : Instr) (s t : State) (b : Bool), (∀ q, i ≠ .reqInfo q) → exec i s = .next t →
    (s.phase = .idle → (∃ q, i = .reqInit q) → exec i { s with init := b } = .next t) ∧
    ((s.phase ≠ .idle ∨ ∀ q, i ≠ .reqInit q) → exec i { s with init := b } = .next { t with init := b })

/-! ## What goes on the bus -/

/-- 41_sequencer.md R153 (c), 30_encoding.md R99, 40_encoder.md R132, decision D31: every complete window of a
well-formed instruction is one well-formed frame of the opcode map, and never Read Device ID. -/
def Obligations.EveryWindowIsOneFrame : Prop :=
  ∀ (i : Instr) (s t : State) (new : List Event), s.cfg.Valid → i.wf s.cfg = true →
    s.phase = .idle → exec i s = .next t → t.trace = s.trace ++ new →
    ∀ bytes ∈ windows new, ∃ j, decodeFrame bytes = .ok j ∧ j.wf s.cfg = true ∧ j ≠ .rdid

/-- 20_memory.md R62, R67, R68, R70; 10_state.md R38: the address every complete window of a well-formed request
carries, with its data, is below CHIP_SIZE; a program keeps to one page and an erase begins at its unit. -/
def Obligations.EveryWindowAddressIsInRange : Prop :=
  ∀ (i : Instr) (s t : State) (new : List Event), s.cfg.Valid → isRequest i = true → i.wf s.cfg = true →
    s.phase = .idle → exec i s = .next t → t.trace = s.trace ++ new →
    ∀ bytes ∈ windows new, ∀ j, decodeFrame bytes = .ok j → frameInRange s.cfg j

/-- 70_reset_and_hazards.md R263 (b): in a request, every window that programs or erases follows its own Write Enable
window. -/
def Obligations.WriteEnablePrecedesEveryChange : Prop :=
  ∀ (i : Instr) (s t : State) (new : List Event) (before after : List (List Byte)) (op : Byte) (rest : List Byte),
    isRequest i = true → s.phase = .idle → exec i s = .next t → t.trace = s.trace ++ new →
    windows new = before ++ (op :: rest) :: after → isChangingOpcode op = true →
    ∃ earlier, before = earlier ++ [[0x06]]

/-! ## Whole-machine rules -/

/-- The invariant of every step: 41_sequencer.md R153 over the whole trace, chip-select asserted exactly inside a
window, no window in a phase that has none, and no wire frame left over in IDLE. -/
def Obligations.StepKeepsTheBusInvariant : Prop :=
  ∀ (s t : State), Inv s → step s = .next t → Inv t

/-- Reset meets the bus invariant. -/
def Obligations.ResetMeetsTheBusInvariant : Prop := Inv State.reset

/-- 60_exceptions.md R234, 10_state.md R34: from a state that meets the bus invariant, a step that ends in IDLE, DONE
or FAILED leaves chip-select deasserted. -/
def Obligations.ChipSelectIsDeassertedOnEveryExit : Prop :=
  ∀ (s t : State), Inv s → step s = .next t → (t.phase = .idle ∨ t.phase = .done ∨ t.phase = .failed) → t.cs = false

/-- The invariant of the operation registers (10_state.md R38, R39, R41): in every phase of a request after its
checks, the address and length are the validated ones, and a split write's cursor adds up. -/
def Obligations.StepKeepsTheRegisterInvariant : Prop :=
  ∀ (s t : State), s.cfg.Valid → RegInv s → step s = .next t → RegInv t

/-- Reset meets the register invariant. -/
def Obligations.ResetMeetsTheRegisterInvariant : Prop := RegInv State.reset

/-- 10_state.md R38, 20_memory.md R62: under the register invariant, the step that opens the command window of a request
other than ECHIP leaves a header to be sent, next, whose three address bytes are ADDR and are below CHIP_SIZE. -/
def Obligations.WireAddressIsBelowChipSize : Prop :=
  ∀ (s : State), s.cfg.Valid → RegInv s → s.job = none → s.phase = .commandIssue → s.pos = .start →
    opOfCode s.req.op ≠ .echip → s.resetLine = false → s.foreignWindow = false →
    ∃ t op hi mid lo dummies later, step s = .next t ∧ t.trace = s.trace ++ [.select true] ∧
      t.pos = .sending ((op :: hi :: mid :: lo :: dummies) :: later) ∧
      op ∈ ([0x03, 0x0B, 0x02, 0x20, 0x52, 0xD8] : List Byte) ∧
      hi.toNat * 65536 + mid.toNat * 256 + lo.toNat = s.addr.toNat ∧ s.addr.toNat < s.cfg.chipSize

/-- The meanings are the straight-line form of the phase machine of 41_sequencer.md R164 (42_operations.md, opening):
from acceptance, the machine that makes one interface event at a time comes to exactly the state the meaning answers,
and there it rests, in IDLE or waiting for an answer of the host. -/
def Obligations.EventMachineReachesTheMeaning : Prop :=
  ∀ (i : Instr) (s : State), s.phase = .idle →
    ∃ n t, exec i s = .next t ∧ ticks n (begun i s) = t ∧ tick t = none
end

