-- ==== Sys2Proof/Laws/State.lean ====
section
/-! SUPPORT. One lemma per field per named update of the state, so that no later proof unfolds a record update. -/

namespace Sys2Proof.Machine

/-! `emit` -/
@[simp] theorem emit_init (s : State) (e : Event) : (State.emit s e).init = s.init := rfl
@[simp] theorem emit_idMfr (s : State) (e : Event) : (State.emit s e).idMfr = s.idMfr := rfl
@[simp] theorem emit_idType (s : State) (e : Event) : (State.emit s e).idType = s.idType := rfl
@[simp] theorem emit_idCap (s : State) (e : Event) : (State.emit s e).idCap = s.idCap := rfl
@[simp] theorem emit_uid (s : State) (e : Event) : (State.emit s e).uid = s.uid := rfl
@[simp] theorem emit_cs (s : State) (e : Event) : (State.emit s e).cs = s.cs := rfl
@[simp] theorem emit_phase (s : State) (e : Event) : (State.emit s e).phase = s.phase := rfl
@[simp] theorem emit_req (s : State) (e : Event) : (State.emit s e).req = s.req := rfl
@[simp] theorem emit_addr (s : State) (e : Event) : (State.emit s e).addr = s.addr := rfl
@[simp] theorem emit_len (s : State) (e : Event) : (State.emit s e).len = s.len := rfl
@[simp] theorem emit_rem (s : State) (e : Event) : (State.emit s e).rem = s.rem := rfl
@[simp] theorem emit_off (s : State) (e : Event) : (State.emit s e).off = s.off := rfl
@[simp] theorem emit_t0 (s : State) (e : Event) : (State.emit s e).t0 = s.t0 := rfl
@[simp] theorem emit_tbudget (s : State) (e : Event) : (State.emit s e).tbudget = s.tbudget := rfl
@[simp] theorem emit_sr (s : State) (e : Event) : (State.emit s e).sr = s.sr := rfl
@[simp] theorem emit_cause (s : State) (e : Event) : (State.emit s e).cause = s.cause := rfl
@[simp] theorem emit_rdata (s : State) (e : Event) : (State.emit s e).rdata = s.rdata := rfl
@[simp] theorem emit_info (s : State) (e : Event) : (State.emit s e).info = s.info := rfl
@[simp] theorem emit_cfg (s : State) (e : Event) : (State.emit s e).cfg = s.cfg := rfl
@[simp] theorem emit_pos (s : State) (e : Event) : (State.emit s e).pos = s.pos := rfl
@[simp] theorem emit_job (s : State) (e : Event) : (State.emit s e).job = s.job := rfl
@[simp] theorem emit_frameRx (s : State) (e : Event) : (State.emit s e).frameRx = s.frameRx := rfl
@[simp] theorem emit_frameTx (s : State) (e : Event) : (State.emit s e).frameTx = s.frameTx := rfl
@[simp] theorem emit_inbox (s : State) (e : Event) : (State.emit s e).inbox = s.inbox := rfl
@[simp] theorem emit_xfers (s : State) (e : Event) : (State.emit s e).xfers = s.xfers := rfl
@[simp] theorem emit_millis (s : State) (e : Event) : (State.emit s e).millis = s.millis := rfl
@[simp] theorem emit_foreignWindow (s : State) (e : Event) : (State.emit s e).foreignWindow = s.foreignWindow := rfl
@[simp] theorem emit_resetLine (s : State) (e : Event) : (State.emit s e).resetLine = s.resetLine := rfl
@[simp] theorem emit_byEvents (s : State) (e : Event) : (State.emit s e).byEvents = s.byEvents := rfl
@[simp] theorem emit_trace (s : State) (e : Event) : (State.emit s e).trace = s.trace ++ [e] := rfl
@[simp] theorem emit_unknownFlash (s : State) (e : Event) : (State.emit s e).unknownFlash = s.unknownFlash := rfl

/-! `enter` -/
@[simp] theorem enter_init (s : State) (p : Phase) : (State.enter s p).init = s.init := rfl
@[simp] theorem enter_idMfr (s : State) (p : Phase) : (State.enter s p).idMfr = s.idMfr := rfl
@[simp] theorem enter_idType (s : State) (p : Phase) : (State.enter s p).idType = s.idType := rfl
@[simp] theorem enter_idCap (s : State) (p : Phase) : (State.enter s p).idCap = s.idCap := rfl
@[simp] theorem enter_uid (s : State) (p : Phase) : (State.enter s p).uid = s.uid := rfl
@[simp] theorem enter_cs (s : State) (p : Phase) : (State.enter s p).cs = s.cs := rfl
@[simp] theorem enter_phase (s : State) (p : Phase) : (State.enter s p).phase = p := rfl
@[simp] theorem enter_req (s : State) (p : Phase) : (State.enter s p).req = s.req := rfl
@[simp] theorem enter_addr (s : State) (p : Phase) : (State.enter s p).addr = s.addr := rfl
@[simp] theorem enter_len (s : State) (p : Phase) : (State.enter s p).len = s.len := rfl
@[simp] theorem enter_rem (s : State) (p : Phase) : (State.enter s p).rem = s.rem := rfl
@[simp] theorem enter_off (s : State) (p : Phase) : (State.enter s p).off = s.off := rfl
@[simp] theorem enter_t0 (s : State) (p : Phase) : (State.enter s p).t0 = s.t0 := rfl
@[simp] theorem enter_tbudget (s : State) (p : Phase) : (State.enter s p).tbudget = s.tbudget := rfl
@[simp] theorem enter_sr (s : State) (p : Phase) : (State.enter s p).sr = s.sr := rfl
@[simp] theorem enter_cause (s : State) (p : Phase) : (State.enter s p).cause = s.cause := rfl
@[simp] theorem enter_rdata (s : State) (p : Phase) : (State.enter s p).rdata = s.rdata := rfl
@[simp] theorem enter_info (s : State) (p : Phase) : (State.enter s p).info = s.info := rfl
@[simp] theorem enter_cfg (s : State) (p : Phase) : (State.enter s p).cfg = s.cfg := rfl
@[simp] theorem enter_pos (s : State) (p : Phase) : (State.enter s p).pos = .start := rfl
@[simp] theorem enter_job (s : State) (p : Phase) : (State.enter s p).job = s.job := rfl
@[simp] theorem enter_frameRx (s : State) (p : Phase) : (State.enter s p).frameRx = s.frameRx := rfl
@[simp] theorem enter_frameTx (s : State) (p : Phase) : (State.enter s p).frameTx = s.frameTx := rfl
@[simp] theorem enter_inbox (s : State) (p : Phase) : (State.enter s p).inbox = s.inbox := rfl
@[simp] theorem enter_xfers (s : State) (p : Phase) : (State.enter s p).xfers = s.xfers := rfl
@[simp] theorem enter_millis (s : State) (p : Phase) : (State.enter s p).millis = s.millis := rfl
@[simp] theorem enter_foreignWindow (s : State) (p : Phase) : (State.enter s p).foreignWindow = s.foreignWindow := rfl
@[simp] theorem enter_resetLine (s : State) (p : Phase) : (State.enter s p).resetLine = s.resetLine := rfl
@[simp] theorem enter_byEvents (s : State) (p : Phase) : (State.enter s p).byEvents = s.byEvents := rfl
@[simp] theorem enter_trace (s : State) (p : Phase) : (State.enter s p).trace = s.trace := rfl
@[simp] theorem enter_unknownFlash (s : State) (p : Phase) : (State.enter s p).unknownFlash = s.unknownFlash := rfl

/-! `stay` -/
@[simp] theorem stay_init (s : State) (p : Pos) : (State.stay s p).init = s.init := rfl
@[simp] theorem stay_idMfr (s : State) (p : Pos) : (State.stay s p).idMfr = s.idMfr := rfl
@[simp] theorem stay_idType (s : State) (p : Pos) : (State.stay s p).idType = s.idType := rfl
@[simp] theorem stay_idCap (s : State) (p : Pos) : (State.stay s p).idCap = s.idCap := rfl
@[simp] theorem stay_uid (s : State) (p : Pos) : (State.stay s p).uid = s.uid := rfl
@[simp] theorem stay_cs (s : State) (p : Pos) : (State.stay s p).cs = s.cs := rfl
@[simp] theorem stay_phase (s : State) (p : Pos) : (State.stay s p).phase = s.phase := rfl
@[simp] theorem stay_req (s : State) (p : Pos) : (State.stay s p).req = s.req := rfl
@[simp] theorem stay_addr (s : State) (p : Pos) : (State.stay s p).addr = s.addr := rfl
@[simp] theorem stay_len (s : State) (p : Pos) : (State.stay s p).len = s.len := rfl
@[simp] theorem stay_rem (s : State) (p : Pos) : (State.stay s p).rem = s.rem := rfl
@[simp] theorem stay_off (s : State) (p : Pos) : (State.stay s p).off = s.off := rfl
@[simp] theorem stay_t0 (s : State) (p : Pos) : (State.stay s p).t0 = s.t0 := rfl
@[simp] theorem stay_tbudget (s : State) (p : Pos) : (State.stay s p).tbudget = s.tbudget := rfl
@[simp] theorem stay_sr (s : State) (p : Pos) : (State.stay s p).sr = s.sr := rfl
@[simp] theorem stay_cause (s : State) (p : Pos) : (State.stay s p).cause = s.cause := rfl
@[simp] theorem stay_rdata (s : State) (p : Pos) : (State.stay s p).rdata = s.rdata := rfl
@[simp] theorem stay_info (s : State) (p : Pos) : (State.stay s p).info = s.info := rfl
@[simp] theorem stay_cfg (s : State) (p : Pos) : (State.stay s p).cfg = s.cfg := rfl
@[simp] theorem stay_pos (s : State) (p : Pos) : (State.stay s p).pos = p := rfl
@[simp] theorem stay_job (s : State) (p : Pos) : (State.stay s p).job = s.job := rfl
@[simp] theorem stay_frameRx (s : State) (p : Pos) : (State.stay s p).frameRx = s.frameRx := rfl
@[simp] theorem stay_frameTx (s : State) (p : Pos) : (State.stay s p).frameTx = s.frameTx := rfl
@[simp] theorem stay_inbox (s : State) (p : Pos) : (State.stay s p).inbox = s.inbox := rfl
@[simp] theorem stay_xfers (s : State) (p : Pos) : (State.stay s p).xfers = s.xfers := rfl
@[simp] theorem stay_millis (s : State) (p : Pos) : (State.stay s p).millis = s.millis := rfl
@[simp] theorem stay_foreignWindow (s : State) (p : Pos) : (State.stay s p).foreignWindow = s.foreignWindow := rfl
@[simp] theorem stay_resetLine (s : State) (p : Pos) : (State.stay s p).resetLine = s.resetLine := rfl
@[simp] theorem stay_byEvents (s : State) (p : Pos) : (State.stay s p).byEvents = s.byEvents := rfl
@[simp] theorem stay_trace (s : State) (p : Pos) : (State.stay s p).trace = s.trace := rfl
@[simp] theorem stay_unknownFlash (s : State) (p : Pos) : (State.stay s p).unknownFlash = s.unknownFlash := rfl

/-! `select` -/
@[simp] theorem select_init (s : State) (b : Bool) : (State.select s b).init = s.init := rfl
@[simp] theorem select_idMfr (s : State) (b : Bool) : (State.select s b).idMfr = s.idMfr := rfl
@[simp] theorem select_idType (s : State) (b : Bool) : (State.select s b).idType = s.idType := rfl
@[simp] theorem select_idCap (s : State) (b : Bool) : (State.select s b).idCap = s.idCap := rfl
@[simp] theorem select_uid (s : State) (b : Bool) : (State.select s b).uid = s.uid := rfl
@[simp] theorem select_cs (s : State) (b : Bool) : (State.select s b).cs = b := rfl
@[simp] theorem select_phase (s : State) (b : Bool) : (State.select s b).phase = s.phase := rfl
@[simp] theorem select_req (s : State) (b : Bool) : (State.select s b).req = s.req := rfl
@[simp] theorem select_addr (s : State) (b : Bool) : (State.select s b).addr = s.addr := rfl
@[simp] theorem select_len (s : State) (b : Bool) : (State.select s b).len = s.len := rfl
@[simp] theorem select_rem (s : State) (b : Bool) : (State.select s b).rem = s.rem := rfl
@[simp] theorem select_off (s : State) (b : Bool) : (State.select s b).off = s.off := rfl
@[simp] theorem select_t0 (s : State) (b : Bool) : (State.select s b).t0 = s.t0 := rfl
@[simp] theorem select_tbudget (s : State) (b : Bool) : (State.select s b).tbudget = s.tbudget := rfl
@[simp] theorem select_sr (s : State) (b : Bool) : (State.select s b).sr = s.sr := rfl
@[simp] theorem select_cause (s : State) (b : Bool) : (State.select s b).cause = s.cause := rfl
@[simp] theorem select_rdata (s : State) (b : Bool) : (State.select s b).rdata = s.rdata := rfl
@[simp] theorem select_info (s : State) (b : Bool) : (State.select s b).info = s.info := rfl
@[simp] theorem select_cfg (s : State) (b : Bool) : (State.select s b).cfg = s.cfg := rfl
@[simp] theorem select_pos (s : State) (b : Bool) : (State.select s b).pos = s.pos := rfl
@[simp] theorem select_job (s : State) (b : Bool) : (State.select s b).job = s.job := rfl
@[simp] theorem select_frameRx (s : State) (b : Bool) : (State.select s b).frameRx = s.frameRx := rfl
@[simp] theorem select_frameTx (s : State) (b : Bool) : (State.select s b).frameTx = s.frameTx := rfl
@[simp] theorem select_inbox (s : State) (b : Bool) : (State.select s b).inbox = s.inbox := rfl
@[simp] theorem select_xfers (s : State) (b : Bool) : (State.select s b).xfers = s.xfers := rfl
@[simp] theorem select_millis (s : State) (b : Bool) : (State.select s b).millis = s.millis := rfl
@[simp] theorem select_foreignWindow (s : State) (b : Bool) : (State.select s b).foreignWindow = s.foreignWindow := rfl
@[simp] theorem select_resetLine (s : State) (b : Bool) : (State.select s b).resetLine = s.resetLine := rfl
@[simp] theorem select_byEvents (s : State) (b : Bool) : (State.select s b).byEvents = s.byEvents := rfl
@[simp] theorem select_trace (s : State) (b : Bool) : (State.select s b).trace = s.trace ++ [.select b] := rfl
@[simp] theorem select_unknownFlash (s : State) (b : Bool) : (State.select s b).unknownFlash = s.unknownFlash := rfl

/-! `sleep` -/
@[simp] theorem sleep_init (s : State) (m : U32) : (State.sleep s m).init = s.init := rfl
@[simp] theorem sleep_idMfr (s : State) (m : U32) : (State.sleep s m).idMfr = s.idMfr := rfl
@[simp] theorem sleep_idType (s : State) (m : U32) : (State.sleep s m).idType = s.idType := rfl
@[simp] theorem sleep_idCap (s : State) (m : U32) : (State.sleep s m).idCap = s.idCap := rfl
@[simp] theorem sleep_uid (s : State) (m : U32) : (State.sleep s m).uid = s.uid := rfl
@[simp] theorem sleep_cs (s : State) (m : U32) : (State.sleep s m).cs = s.cs := rfl
@[simp] theorem sleep_phase (s : State) (m : U32) : (State.sleep s m).phase = s.phase := rfl
@[simp] theorem sleep_req (s : State) (m : U32) : (State.sleep s m).req = s.req := rfl
@[simp] theorem sleep_addr (s : State) (m : U32) : (State.sleep s m).addr = s.addr := rfl
@[simp] theorem sleep_len (s : State) (m : U32) : (State.sleep s m).len = s.len := rfl
@[simp] theorem sleep_rem (s : State) (m : U32) : (State.sleep s m).rem = s.rem := rfl
@[simp] theorem sleep_off (s : State) (m : U32) : (State.sleep s m).off = s.off := rfl
@[simp] theorem sleep_t0 (s : State) (m : U32) : (State.sleep s m).t0 = s.t0 := rfl
@[simp] theorem sleep_tbudget (s : State) (m : U32) : (State.sleep s m).tbudget = s.tbudget := rfl
@[simp] theorem sleep_sr (s : State) (m : U32) : (State.sleep s m).sr = s.sr := rfl
@[simp] theorem sleep_cause (s : State) (m : U32) : (State.sleep s m).cause = s.cause := rfl
@[simp] theorem sleep_rdata (s : State) (m : U32) : (State.sleep s m).rdata = s.rdata := rfl
@[simp] theorem sleep_info (s : State) (m : U32) : (State.sleep s m).info = s.info := rfl
@[simp] theorem sleep_cfg (s : State) (m : U32) : (State.sleep s m).cfg = s.cfg := rfl
@[simp] theorem sleep_pos (s : State) (m : U32) : (State.sleep s m).pos = s.pos := rfl
@[simp] theorem sleep_job (s : State) (m : U32) : (State.sleep s m).job = s.job := rfl
@[simp] theorem sleep_frameRx (s : State) (m : U32) : (State.sleep s m).frameRx = s.frameRx := rfl
@[simp] theorem sleep_frameTx (s : State) (m : U32) : (State.sleep s m).frameTx = s.frameTx := rfl
@[simp] theorem sleep_inbox (s : State) (m : U32) : (State.sleep s m).inbox = s.inbox := rfl
@[simp] theorem sleep_xfers (s : State) (m : U32) : (State.sleep s m).xfers = s.xfers := rfl
@[simp] theorem sleep_millis (s : State) (m : U32) : (State.sleep s m).millis = s.millis := rfl
@[simp] theorem sleep_foreignWindow (s : State) (m : U32) : (State.sleep s m).foreignWindow = s.foreignWindow := rfl
@[simp] theorem sleep_resetLine (s : State) (m : U32) : (State.sleep s m).resetLine = s.resetLine := rfl
@[simp] theorem sleep_byEvents (s : State) (m : U32) : (State.sleep s m).byEvents = s.byEvents := rfl
@[simp] theorem sleep_trace (s : State) (m : U32) : (State.sleep s m).trace = s.trace ++ [.sleep m] := rfl
@[simp] theorem sleep_unknownFlash (s : State) (m : U32) : (State.sleep s m).unknownFlash = s.unknownFlash := rfl

/-! `enterReady` -/
@[simp] theorem enterReady_init (s : State) : (enterReady s).init = s.init := rfl
@[simp] theorem enterReady_idMfr (s : State) : (enterReady s).idMfr = s.idMfr := rfl
@[simp] theorem enterReady_idType (s : State) : (enterReady s).idType = s.idType := rfl
@[simp] theorem enterReady_idCap (s : State) : (enterReady s).idCap = s.idCap := rfl
@[simp] theorem enterReady_uid (s : State) : (enterReady s).uid = s.uid := rfl
@[simp] theorem enterReady_cs (s : State) : (enterReady s).cs = s.cs := rfl
@[simp] theorem enterReady_phase (s : State) : (enterReady s).phase = .waitReady := rfl
@[simp] theorem enterReady_req (s : State) : (enterReady s).req = s.req := rfl
@[simp] theorem enterReady_addr (s : State) : (enterReady s).addr = s.addr := rfl
@[simp] theorem enterReady_len (s : State) : (enterReady s).len = s.len := rfl
@[simp] theorem enterReady_rem (s : State) : (enterReady s).rem = s.rem := rfl
@[simp] theorem enterReady_off (s : State) : (enterReady s).off = s.off := rfl
@[simp] theorem enterReady_t0 (s : State) : (enterReady s).t0 = s.t0 := rfl
@[simp] theorem enterReady_tbudget (s : State) : (enterReady s).tbudget = s.cfg.tReadyMs := rfl
@[simp] theorem enterReady_sr (s : State) : (enterReady s).sr = s.sr := rfl
@[simp] theorem enterReady_cause (s : State) : (enterReady s).cause = s.cause := rfl
@[simp] theorem enterReady_rdata (s : State) : (enterReady s).rdata = s.rdata := rfl
@[simp] theorem enterReady_info (s : State) : (enterReady s).info = s.info := rfl
@[simp] theorem enterReady_cfg (s : State) : (enterReady s).cfg = s.cfg := rfl
@[simp] theorem enterReady_pos (s : State) : (enterReady s).pos = .start := rfl
@[simp] theorem enterReady_job (s : State) : (enterReady s).job = s.job := rfl
@[simp] theorem enterReady_frameRx (s : State) : (enterReady s).frameRx = s.frameRx := rfl
@[simp] theorem enterReady_frameTx (s : State) : (enterReady s).frameTx = s.frameTx := rfl
@[simp] theorem enterReady_inbox (s : State) : (enterReady s).inbox = s.inbox := rfl
@[simp] theorem enterReady_xfers (s : State) : (enterReady s).xfers = s.xfers := rfl
@[simp] theorem enterReady_millis (s : State) : (enterReady s).millis = s.millis := rfl
@[simp] theorem enterReady_foreignWindow (s : State) : (enterReady s).foreignWindow = s.foreignWindow := rfl
@[simp] theorem enterReady_resetLine (s : State) : (enterReady s).resetLine = s.resetLine := rfl
@[simp] theorem enterReady_byEvents (s : State) : (enterReady s).byEvents = s.byEvents := rfl
@[simp] theorem enterReady_trace (s : State) : (enterReady s).trace = s.trace := rfl
@[simp] theorem enterReady_unknownFlash (s : State) : (enterReady s).unknownFlash = s.unknownFlash := rfl

/-! `enterComplete` -/
@[simp] theorem enterComplete_init (s : State) : (enterComplete s).init = s.init := rfl
@[simp] theorem enterComplete_idMfr (s : State) : (enterComplete s).idMfr = s.idMfr := rfl
@[simp] theorem enterComplete_idType (s : State) : (enterComplete s).idType = s.idType := rfl
@[simp] theorem enterComplete_idCap (s : State) : (enterComplete s).idCap = s.idCap := rfl
@[simp] theorem enterComplete_uid (s : State) : (enterComplete s).uid = s.uid := rfl
@[simp] theorem enterComplete_cs (s : State) : (enterComplete s).cs = s.cs := rfl
@[simp] theorem enterComplete_phase (s : State) : (enterComplete s).phase = .waitComplete := rfl
@[simp] theorem enterComplete_req (s : State) : (enterComplete s).req = s.req := rfl
@[simp] theorem enterComplete_addr (s : State) : (enterComplete s).addr = s.addr := rfl
@[simp] theorem enterComplete_len (s : State) : (enterComplete s).len = s.len := rfl
@[simp] theorem enterComplete_rem (s : State) : (enterComplete s).rem = s.rem := rfl
@[simp] theorem enterComplete_off (s : State) : (enterComplete s).off = s.off := rfl
@[simp] theorem enterComplete_t0 (s : State) : (enterComplete s).t0 = s.t0 := rfl
@[simp] theorem enterComplete_tbudget (s : State) : (enterComplete s).tbudget = (completeBudget s.cfg (opOfCode s.req.op)).getD s.tbudget := rfl
@[simp] theorem enterComplete_sr (s : State) : (enterComplete s).sr = s.sr := rfl
@[simp] theorem enterComplete_cause (s : State) : (enterComplete s).cause = s.cause := rfl
@[simp] theorem enterComplete_rdata (s : State) : (enterComplete s).rdata = s.rdata := rfl
@[simp] theorem enterComplete_info (s : State) : (enterComplete s).info = s.info := rfl
@[simp] theorem enterComplete_cfg (s : State) : (enterComplete s).cfg = s.cfg := rfl
@[simp] theorem enterComplete_pos (s : State) : (enterComplete s).pos = .start := rfl
@[simp] theorem enterComplete_job (s : State) : (enterComplete s).job = s.job := rfl
@[simp] theorem enterComplete_frameRx (s : State) : (enterComplete s).frameRx = s.frameRx := rfl
@[simp] theorem enterComplete_frameTx (s : State) : (enterComplete s).frameTx = s.frameTx := rfl
@[simp] theorem enterComplete_inbox (s : State) : (enterComplete s).inbox = s.inbox := rfl
@[simp] theorem enterComplete_xfers (s : State) : (enterComplete s).xfers = s.xfers := rfl
@[simp] theorem enterComplete_millis (s : State) : (enterComplete s).millis = s.millis := rfl
@[simp] theorem enterComplete_foreignWindow (s : State) : (enterComplete s).foreignWindow = s.foreignWindow := rfl
@[simp] theorem enterComplete_resetLine (s : State) : (enterComplete s).resetLine = s.resetLine := rfl
@[simp] theorem enterComplete_byEvents (s : State) : (enterComplete s).byEvents = s.byEvents := rfl
@[simp] theorem enterComplete_trace (s : State) : (enterComplete s).trace = s.trace := rfl
@[simp] theorem enterComplete_unknownFlash (s : State) : (enterComplete s).unknownFlash = s.unknownFlash := rfl

/-! `raise` -/
@[simp] theorem raise_init (c : Cause) (s : State) : (raise c s).init = s.init := rfl
@[simp] theorem raise_idMfr (c : Cause) (s : State) : (raise c s).idMfr = s.idMfr := rfl
@[simp] theorem raise_idType (c : Cause) (s : State) : (raise c s).idType = s.idType := rfl
@[simp] theorem raise_idCap (c : Cause) (s : State) : (raise c s).idCap = s.idCap := rfl
@[simp] theorem raise_uid (c : Cause) (s : State) : (raise c s).uid = s.uid := rfl
@[simp] theorem raise_cs (c : Cause) (s : State) : (raise c s).cs = s.cs := rfl
@[simp] theorem raise_phase (c : Cause) (s : State) : (raise c s).phase = .failed := rfl
@[simp] theorem raise_req (c : Cause) (s : State) : (raise c s).req = s.req := rfl
@[simp] theorem raise_addr (c : Cause) (s : State) : (raise c s).addr = s.addr := rfl
@[simp] theorem raise_len (c : Cause) (s : State) : (raise c s).len = s.len := rfl
@[simp] theorem raise_rem (c : Cause) (s : State) : (raise c s).rem = s.rem := rfl
@[simp] theorem raise_off (c : Cause) (s : State) : (raise c s).off = s.off := rfl
@[simp] theorem raise_t0 (c : Cause) (s : State) : (raise c s).t0 = s.t0 := rfl
@[simp] theorem raise_tbudget (c : Cause) (s : State) : (raise c s).tbudget = s.tbudget := rfl
@[simp] theorem raise_sr (c : Cause) (s : State) : (raise c s).sr = s.sr := rfl
@[simp] theorem raise_cause (c : Cause) (s : State) : (raise c s).cause = c := rfl
@[simp] theorem raise_rdata (c : Cause) (s : State) : (raise c s).rdata = s.rdata := rfl
@[simp] theorem raise_info (c : Cause) (s : State) : (raise c s).info = s.info := rfl
@[simp] theorem raise_cfg (c : Cause) (s : State) : (raise c s).cfg = s.cfg := rfl
@[simp] theorem raise_pos (c : Cause) (s : State) : (raise c s).pos = .start := rfl
@[simp] theorem raise_job (c : Cause) (s : State) : (raise c s).job = s.job := rfl
@[simp] theorem raise_frameRx (c : Cause) (s : State) : (raise c s).frameRx = s.frameRx := rfl
@[simp] theorem raise_frameTx (c : Cause) (s : State) : (raise c s).frameTx = s.frameTx := rfl
@[simp] theorem raise_inbox (c : Cause) (s : State) : (raise c s).inbox = s.inbox := rfl
@[simp] theorem raise_xfers (c : Cause) (s : State) : (raise c s).xfers = s.xfers := rfl
@[simp] theorem raise_millis (c : Cause) (s : State) : (raise c s).millis = s.millis := rfl
@[simp] theorem raise_foreignWindow (c : Cause) (s : State) : (raise c s).foreignWindow = s.foreignWindow := rfl
@[simp] theorem raise_resetLine (c : Cause) (s : State) : (raise c s).resetLine = s.resetLine := rfl
@[simp] theorem raise_byEvents (c : Cause) (s : State) : (raise c s).byEvents = s.byEvents := rfl
@[simp] theorem raise_trace (c : Cause) (s : State) : (raise c s).trace = s.trace := rfl
@[simp] theorem raise_unknownFlash (c : Cause) (s : State) : (raise c s).unknownFlash = s.unknownFlash ++ reachNow s := rfl

/-! `respondOk` -/
@[simp] theorem respondOk_init (s : State) : (respondOk s).init = s.init := rfl
@[simp] theorem respondOk_idMfr (s : State) : (respondOk s).idMfr = s.idMfr := rfl
@[simp] theorem respondOk_idType (s : State) : (respondOk s).idType = s.idType := rfl
@[simp] theorem respondOk_idCap (s : State) : (respondOk s).idCap = s.idCap := rfl
@[simp] theorem respondOk_uid (s : State) : (respondOk s).uid = s.uid := rfl
@[simp] theorem respondOk_cs (s : State) : (respondOk s).cs = s.cs := rfl
@[simp] theorem respondOk_phase (s : State) : (respondOk s).phase = .idle := rfl
@[simp] theorem respondOk_req (s : State) : (respondOk s).req = s.req := rfl
@[simp] theorem respondOk_addr (s : State) : (respondOk s).addr = s.addr := rfl
@[simp] theorem respondOk_len (s : State) : (respondOk s).len = s.len := rfl
@[simp] theorem respondOk_rem (s : State) : (respondOk s).rem = s.rem := rfl
@[simp] theorem respondOk_off (s : State) : (respondOk s).off = s.off := rfl
@[simp] theorem respondOk_t0 (s : State) : (respondOk s).t0 = s.t0 := rfl
@[simp] theorem respondOk_tbudget (s : State) : (respondOk s).tbudget = s.tbudget := rfl
@[simp] theorem respondOk_sr (s : State) : (respondOk s).sr = s.sr := rfl
@[simp] theorem respondOk_cause (s : State) : (respondOk s).cause = s.cause := rfl
@[simp] theorem respondOk_rdata (s : State) : (respondOk s).rdata = s.rdata := rfl
@[simp] theorem respondOk_info (s : State) : (respondOk s).info = s.info := rfl
@[simp] theorem respondOk_cfg (s : State) : (respondOk s).cfg = s.cfg := rfl
@[simp] theorem respondOk_pos (s : State) : (respondOk s).pos = .start := rfl
@[simp] theorem respondOk_job (s : State) : (respondOk s).job = none := rfl
@[simp] theorem respondOk_frameRx (s : State) : (respondOk s).frameRx = s.frameRx := rfl
@[simp] theorem respondOk_frameTx (s : State) : (respondOk s).frameTx = s.frameTx := rfl
@[simp] theorem respondOk_inbox (s : State) : (respondOk s).inbox = s.inbox := rfl
@[simp] theorem respondOk_xfers (s : State) : (respondOk s).xfers = s.xfers := rfl
@[simp] theorem respondOk_millis (s : State) : (respondOk s).millis = s.millis := rfl
@[simp] theorem respondOk_foreignWindow (s : State) : (respondOk s).foreignWindow = s.foreignWindow := rfl
@[simp] theorem respondOk_resetLine (s : State) : (respondOk s).resetLine = s.resetLine := rfl
@[simp] theorem respondOk_byEvents (s : State) : (respondOk s).byEvents = s.byEvents := rfl
@[simp] theorem respondOk_trace (s : State) : (respondOk s).trace = s.trace ++ [.respond { result := .ok, cause := .none, rdata := s.rdata, info := s.info }] := rfl
@[simp] theorem respondOk_unknownFlash (s : State) : (respondOk s).unknownFlash = s.unknownFlash := rfl

/-! `respondError` -/
@[simp] theorem respondError_init (s : State) : (respondError s).init = s.init := rfl
@[simp] theorem respondError_idMfr (s : State) : (respondError s).idMfr = s.idMfr := rfl
@[simp] theorem respondError_idType (s : State) : (respondError s).idType = s.idType := rfl
@[simp] theorem respondError_idCap (s : State) : (respondError s).idCap = s.idCap := rfl
@[simp] theorem respondError_uid (s : State) : (respondError s).uid = s.uid := rfl
@[simp] theorem respondError_cs (s : State) : (respondError s).cs = s.cs := rfl
@[simp] theorem respondError_phase (s : State) : (respondError s).phase = .idle := rfl
@[simp] theorem respondError_req (s : State) : (respondError s).req = s.req := rfl
@[simp] theorem respondError_addr (s : State) : (respondError s).addr = s.addr := rfl
@[simp] theorem respondError_len (s : State) : (respondError s).len = s.len := rfl
@[simp] theorem respondError_rem (s : State) : (respondError s).rem = s.rem := rfl
@[simp] theorem respondError_off (s : State) : (respondError s).off = s.off := rfl
@[simp] theorem respondError_t0 (s : State) : (respondError s).t0 = s.t0 := rfl
@[simp] theorem respondError_tbudget (s : State) : (respondError s).tbudget = s.tbudget := rfl
@[simp] theorem respondError_sr (s : State) : (respondError s).sr = s.sr := rfl
@[simp] theorem respondError_cause (s : State) : (respondError s).cause = s.cause := rfl
@[simp] theorem respondError_rdata (s : State) : (respondError s).rdata = s.rdata := rfl
@[simp] theorem respondError_info (s : State) : (respondError s).info = s.info := rfl
@[simp] theorem respondError_cfg (s : State) : (respondError s).cfg = s.cfg := rfl
@[simp] theorem respondError_pos (s : State) : (respondError s).pos = .start := rfl
@[simp] theorem respondError_job (s : State) : (respondError s).job = none := rfl
@[simp] theorem respondError_frameRx (s : State) : (respondError s).frameRx = s.frameRx := rfl
@[simp] theorem respondError_frameTx (s : State) : (respondError s).frameTx = s.frameTx := rfl
@[simp] theorem respondError_inbox (s : State) : (respondError s).inbox = s.inbox := rfl
@[simp] theorem respondError_xfers (s : State) : (respondError s).xfers = s.xfers := rfl
@[simp] theorem respondError_millis (s : State) : (respondError s).millis = s.millis := rfl
@[simp] theorem respondError_foreignWindow (s : State) : (respondError s).foreignWindow = s.foreignWindow := rfl
@[simp] theorem respondError_resetLine (s : State) : (respondError s).resetLine = s.resetLine := rfl
@[simp] theorem respondError_byEvents (s : State) : (respondError s).byEvents = s.byEvents := rfl
@[simp] theorem respondError_trace (s : State) : (respondError s).trace = s.trace ++ [.respond { result := .error, cause := s.cause, rdata := [], info := [] }] := rfl
@[simp] theorem respondError_unknownFlash (s : State) : (respondError s).unknownFlash = s.unknownFlash := rfl

/-! `accept` -/
@[simp] theorem accept_init (r : Request) (s : State) : (accept r s).init = s.init := rfl
@[simp] theorem accept_idMfr (r : Request) (s : State) : (accept r s).idMfr = s.idMfr := rfl
@[simp] theorem accept_idType (r : Request) (s : State) : (accept r s).idType = s.idType := rfl
@[simp] theorem accept_idCap (r : Request) (s : State) : (accept r s).idCap = s.idCap := rfl
@[simp] theorem accept_uid (r : Request) (s : State) : (accept r s).uid = s.uid := rfl
@[simp] theorem accept_cs (r : Request) (s : State) : (accept r s).cs = s.cs := rfl
@[simp] theorem accept_phase (r : Request) (s : State) : (accept r s).phase = .validate := rfl
@[simp] theorem accept_req (r : Request) (s : State) : (accept r s).req = r := rfl
@[simp] theorem accept_addr (r : Request) (s : State) : (accept r s).addr = s.addr := rfl
@[simp] theorem accept_len (r : Request) (s : State) : (accept r s).len = s.len := rfl
@[simp] theorem accept_rem (r : Request) (s : State) : (accept r s).rem = s.rem := rfl
@[simp] theorem accept_off (r : Request) (s : State) : (accept r s).off = s.off := rfl
@[simp] theorem accept_t0 (r : Request) (s : State) : (accept r s).t0 = s.t0 := rfl
@[simp] theorem accept_tbudget (r : Request) (s : State) : (accept r s).tbudget = s.tbudget := rfl
@[simp] theorem accept_sr (r : Request) (s : State) : (accept r s).sr = s.sr := rfl
@[simp] theorem accept_cause (r : Request) (s : State) : (accept r s).cause = .none := rfl
@[simp] theorem accept_rdata (r : Request) (s : State) : (accept r s).rdata = [] := rfl
@[simp] theorem accept_info (r : Request) (s : State) : (accept r s).info = [] := rfl
@[simp] theorem accept_cfg (r : Request) (s : State) : (accept r s).cfg = s.cfg := rfl
@[simp] theorem accept_pos (r : Request) (s : State) : (accept r s).pos = .start := rfl
@[simp] theorem accept_job (r : Request) (s : State) : (accept r s).job = none := rfl
@[simp] theorem accept_frameRx (r : Request) (s : State) : (accept r s).frameRx = s.frameRx := rfl
@[simp] theorem accept_frameTx (r : Request) (s : State) : (accept r s).frameTx = s.frameTx := rfl
@[simp] theorem accept_inbox (r : Request) (s : State) : (accept r s).inbox = s.inbox := rfl
@[simp] theorem accept_xfers (r : Request) (s : State) : (accept r s).xfers = s.xfers := rfl
@[simp] theorem accept_millis (r : Request) (s : State) : (accept r s).millis = s.millis := rfl
@[simp] theorem accept_foreignWindow (r : Request) (s : State) : (accept r s).foreignWindow = s.foreignWindow := rfl
@[simp] theorem accept_resetLine (r : Request) (s : State) : (accept r s).resetLine = s.resetLine := rfl
@[simp] theorem accept_byEvents (r : Request) (s : State) : (accept r s).byEvents = s.byEvents := rfl
@[simp] theorem accept_trace (r : Request) (s : State) : (accept r s).trace = s.trace ++ [.accept r] := rfl
@[simp] theorem accept_unknownFlash (r : Request) (s : State) : (accept r s).unknownFlash = s.unknownFlash := rfl

/-! `acceptFrame` -/
@[simp] theorem acceptFrame_init (i : Instr) (s : State) : (acceptFrame i s).init = s.init := rfl
@[simp] theorem acceptFrame_idMfr (i : Instr) (s : State) : (acceptFrame i s).idMfr = s.idMfr := rfl
@[simp] theorem acceptFrame_idType (i : Instr) (s : State) : (acceptFrame i s).idType = s.idType := rfl
@[simp] theorem acceptFrame_idCap (i : Instr) (s : State) : (acceptFrame i s).idCap = s.idCap := rfl
@[simp] theorem acceptFrame_uid (i : Instr) (s : State) : (acceptFrame i s).uid = s.uid := rfl
@[simp] theorem acceptFrame_cs (i : Instr) (s : State) : (acceptFrame i s).cs = s.cs := rfl
@[simp] theorem acceptFrame_phase (i : Instr) (s : State) : (acceptFrame i s).phase = framePhase i := rfl
@[simp] theorem acceptFrame_req (i : Instr) (s : State) : (acceptFrame i s).req = s.req := rfl
@[simp] theorem acceptFrame_addr (i : Instr) (s : State) : (acceptFrame i s).addr = s.addr := rfl
@[simp] theorem acceptFrame_len (i : Instr) (s : State) : (acceptFrame i s).len = s.len := rfl
@[simp] theorem acceptFrame_rem (i : Instr) (s : State) : (acceptFrame i s).rem = s.rem := rfl
@[simp] theorem acceptFrame_off (i : Instr) (s : State) : (acceptFrame i s).off = s.off := rfl
@[simp] theorem acceptFrame_t0 (i : Instr) (s : State) : (acceptFrame i s).t0 = s.t0 := rfl
@[simp] theorem acceptFrame_tbudget (i : Instr) (s : State) : (acceptFrame i s).tbudget = s.tbudget := rfl
@[simp] theorem acceptFrame_sr (i : Instr) (s : State) : (acceptFrame i s).sr = s.sr := rfl
@[simp] theorem acceptFrame_cause (i : Instr) (s : State) : (acceptFrame i s).cause = .none := rfl
@[simp] theorem acceptFrame_rdata (i : Instr) (s : State) : (acceptFrame i s).rdata = [] := rfl
@[simp] theorem acceptFrame_info (i : Instr) (s : State) : (acceptFrame i s).info = [] := rfl
@[simp] theorem acceptFrame_cfg (i : Instr) (s : State) : (acceptFrame i s).cfg = s.cfg := rfl
@[simp] theorem acceptFrame_pos (i : Instr) (s : State) : (acceptFrame i s).pos = .start := rfl
@[simp] theorem acceptFrame_job (i : Instr) (s : State) : (acceptFrame i s).job = some i := rfl
@[simp] theorem acceptFrame_frameRx (i : Instr) (s : State) : (acceptFrame i s).frameRx = [] := rfl
@[simp] theorem acceptFrame_frameTx (i : Instr) (s : State) : (acceptFrame i s).frameTx = (wireParts s.cfg i).flatten := rfl
@[simp] theorem acceptFrame_inbox (i : Instr) (s : State) : (acceptFrame i s).inbox = s.inbox := rfl
@[simp] theorem acceptFrame_xfers (i : Instr) (s : State) : (acceptFrame i s).xfers = s.xfers := rfl
@[simp] theorem acceptFrame_millis (i : Instr) (s : State) : (acceptFrame i s).millis = s.millis := rfl
@[simp] theorem acceptFrame_foreignWindow (i : Instr) (s : State) : (acceptFrame i s).foreignWindow = s.foreignWindow := rfl
@[simp] theorem acceptFrame_resetLine (i : Instr) (s : State) : (acceptFrame i s).resetLine = s.resetLine := rfl
@[simp] theorem acceptFrame_byEvents (i : Instr) (s : State) : (acceptFrame i s).byEvents = s.byEvents := rfl
@[simp] theorem acceptFrame_trace (i : Instr) (s : State) : (acceptFrame i s).trace = s.trace ++ [.acceptFrame i] := rfl
@[simp] theorem acceptFrame_unknownFlash (i : Instr) (s : State) : (acceptFrame i s).unknownFlash = s.unknownFlash := rfl

/-! `absorbFrame` -/
@[simp] theorem absorbFrame_init (i : Instr) (rx : List Byte) (s : State) : (absorbFrame i rx s).init = s.init := rfl
@[simp] theorem absorbFrame_idMfr (i : Instr) (rx : List Byte) (s : State) : (absorbFrame i rx s).idMfr = s.idMfr := rfl
@[simp] theorem absorbFrame_idType (i : Instr) (rx : List Byte) (s : State) : (absorbFrame i rx s).idType = s.idType := rfl
@[simp] theorem absorbFrame_idCap (i : Instr) (rx : List Byte) (s : State) : (absorbFrame i rx s).idCap = s.idCap := rfl
@[simp] theorem absorbFrame_uid (i : Instr) (rx : List Byte) (s : State) : (absorbFrame i rx s).uid = s.uid := rfl
@[simp] theorem absorbFrame_cs (i : Instr) (rx : List Byte) (s : State) : (absorbFrame i rx s).cs = s.cs := rfl
@[simp] theorem absorbFrame_phase (i : Instr) (rx : List Byte) (s : State) : (absorbFrame i rx s).phase = s.phase := rfl
@[simp] theorem absorbFrame_req (i : Instr) (rx : List Byte) (s : State) : (absorbFrame i rx s).req = s.req := rfl
@[simp] theorem absorbFrame_addr (i : Instr) (rx : List Byte) (s : State) : (absorbFrame i rx s).addr = s.addr := rfl
@[simp] theorem absorbFrame_len (i : Instr) (rx : List Byte) (s : State) : (absorbFrame i rx s).len = s.len := rfl
@[simp] theorem absorbFrame_rem (i : Instr) (rx : List Byte) (s : State) : (absorbFrame i rx s).rem = s.rem := rfl
@[simp] theorem absorbFrame_off (i : Instr) (rx : List Byte) (s : State) : (absorbFrame i rx s).off = s.off := rfl
@[simp] theorem absorbFrame_t0 (i : Instr) (rx : List Byte) (s : State) : (absorbFrame i rx s).t0 = s.t0 := rfl
@[simp] theorem absorbFrame_tbudget (i : Instr) (rx : List Byte) (s : State) : (absorbFrame i rx s).tbudget = s.tbudget := rfl
@[simp] theorem absorbFrame_sr (i : Instr) (rx : List Byte) (s : State) : (absorbFrame i rx s).sr = if i = .rdsr then rxAt rx 1 else s.sr := rfl
@[simp] theorem absorbFrame_cause (i : Instr) (rx : List Byte) (s : State) : (absorbFrame i rx s).cause = s.cause := rfl
@[simp] theorem absorbFrame_rdata (i : Instr) (rx : List Byte) (s : State) : (absorbFrame i rx s).rdata = s.rdata := rfl
@[simp] theorem absorbFrame_info (i : Instr) (rx : List Byte) (s : State) : (absorbFrame i rx s).info = s.info := rfl
@[simp] theorem absorbFrame_cfg (i : Instr) (rx : List Byte) (s : State) : (absorbFrame i rx s).cfg = s.cfg := rfl
@[simp] theorem absorbFrame_pos (i : Instr) (rx : List Byte) (s : State) : (absorbFrame i rx s).pos = s.pos := rfl
@[simp] theorem absorbFrame_job (i : Instr) (rx : List Byte) (s : State) : (absorbFrame i rx s).job = s.job := rfl
@[simp] theorem absorbFrame_frameRx (i : Instr) (rx : List Byte) (s : State) : (absorbFrame i rx s).frameRx = responseField rx i := rfl
@[simp] theorem absorbFrame_frameTx (i : Instr) (rx : List Byte) (s : State) : (absorbFrame i rx s).frameTx = s.frameTx := rfl
@[simp] theorem absorbFrame_inbox (i : Instr) (rx : List Byte) (s : State) : (absorbFrame i rx s).inbox = s.inbox := rfl
@[simp] theorem absorbFrame_xfers (i : Instr) (rx : List Byte) (s : State) : (absorbFrame i rx s).xfers = s.xfers := rfl
@[simp] theorem absorbFrame_millis (i : Instr) (rx : List Byte) (s : State) : (absorbFrame i rx s).millis = s.millis := rfl
@[simp] theorem absorbFrame_foreignWindow (i : Instr) (rx : List Byte) (s : State) : (absorbFrame i rx s).foreignWindow = s.foreignWindow := rfl
@[simp] theorem absorbFrame_resetLine (i : Instr) (rx : List Byte) (s : State) : (absorbFrame i rx s).resetLine = s.resetLine := rfl
@[simp] theorem absorbFrame_byEvents (i : Instr) (rx : List Byte) (s : State) : (absorbFrame i rx s).byEvents = s.byEvents := rfl
@[simp] theorem absorbFrame_trace (i : Instr) (rx : List Byte) (s : State) : (absorbFrame i rx s).trace = s.trace := rfl
@[simp] theorem absorbFrame_unknownFlash (i : Instr) (rx : List Byte) (s : State) : (absorbFrame i rx s).unknownFlash = s.unknownFlash := rfl

/-! `loadAddrLen` -/
@[simp] theorem loadAddrLen_init (s : State) : (loadAddrLen s).init = s.init := rfl
@[simp] theorem loadAddrLen_idMfr (s : State) : (loadAddrLen s).idMfr = s.idMfr := rfl
@[simp] theorem loadAddrLen_idType (s : State) : (loadAddrLen s).idType = s.idType := rfl
@[simp] theorem loadAddrLen_idCap (s : State) : (loadAddrLen s).idCap = s.idCap := rfl
@[simp] theorem loadAddrLen_uid (s : State) : (loadAddrLen s).uid = s.uid := rfl
@[simp] theorem loadAddrLen_cs (s : State) : (loadAddrLen s).cs = s.cs := rfl
@[simp] theorem loadAddrLen_phase (s : State) : (loadAddrLen s).phase = s.phase := rfl
@[simp] theorem loadAddrLen_req (s : State) : (loadAddrLen s).req = s.req := rfl
@[simp] theorem loadAddrLen_addr (s : State) : (loadAddrLen s).addr = s.req.addr := rfl
@[simp] theorem loadAddrLen_len (s : State) : (loadAddrLen s).len = s.req.len := rfl
@[simp] theorem loadAddrLen_rem (s : State) : (loadAddrLen s).rem = s.rem := rfl
@[simp] theorem loadAddrLen_off (s : State) : (loadAddrLen s).off = s.off := rfl
@[simp] theorem loadAddrLen_t0 (s : State) : (loadAddrLen s).t0 = s.t0 := rfl
@[simp] theorem loadAddrLen_tbudget (s : State) : (loadAddrLen s).tbudget = s.tbudget := rfl
@[simp] theorem loadAddrLen_sr (s : State) : (loadAddrLen s).sr = s.sr := rfl
@[simp] theorem loadAddrLen_cause (s : State) : (loadAddrLen s).cause = s.cause := rfl
@[simp] theorem loadAddrLen_rdata (s : State) : (loadAddrLen s).rdata = s.rdata := rfl
@[simp] theorem loadAddrLen_info (s : State) : (loadAddrLen s).info = s.info := rfl
@[simp] theorem loadAddrLen_cfg (s : State) : (loadAddrLen s).cfg = s.cfg := rfl
@[simp] theorem loadAddrLen_pos (s : State) : (loadAddrLen s).pos = s.pos := rfl
@[simp] theorem loadAddrLen_job (s : State) : (loadAddrLen s).job = s.job := rfl
@[simp] theorem loadAddrLen_frameRx (s : State) : (loadAddrLen s).frameRx = s.frameRx := rfl
@[simp] theorem loadAddrLen_frameTx (s : State) : (loadAddrLen s).frameTx = s.frameTx := rfl
@[simp] theorem loadAddrLen_inbox (s : State) : (loadAddrLen s).inbox = s.inbox := rfl
@[simp] theorem loadAddrLen_xfers (s : State) : (loadAddrLen s).xfers = s.xfers := rfl
@[simp] theorem loadAddrLen_millis (s : State) : (loadAddrLen s).millis = s.millis := rfl
@[simp] theorem loadAddrLen_foreignWindow (s : State) : (loadAddrLen s).foreignWindow = s.foreignWindow := rfl
@[simp] theorem loadAddrLen_resetLine (s : State) : (loadAddrLen s).resetLine = s.resetLine := rfl
@[simp] theorem loadAddrLen_byEvents (s : State) : (loadAddrLen s).byEvents = s.byEvents := rfl
@[simp] theorem loadAddrLen_trace (s : State) : (loadAddrLen s).trace = s.trace := rfl
@[simp] theorem loadAddrLen_unknownFlash (s : State) : (loadAddrLen s).unknownFlash = s.unknownFlash := rfl

/-! `alignTo` -/
@[simp] theorem alignTo_init (g : Nat) (s : State) : (alignTo g s).init = s.init := rfl
@[simp] theorem alignTo_idMfr (g : Nat) (s : State) : (alignTo g s).idMfr = s.idMfr := rfl
@[simp] theorem alignTo_idType (g : Nat) (s : State) : (alignTo g s).idType = s.idType := rfl
@[simp] theorem alignTo_idCap (g : Nat) (s : State) : (alignTo g s).idCap = s.idCap := rfl
@[simp] theorem alignTo_uid (g : Nat) (s : State) : (alignTo g s).uid = s.uid := rfl
@[simp] theorem alignTo_cs (g : Nat) (s : State) : (alignTo g s).cs = s.cs := rfl
@[simp] theorem alignTo_phase (g : Nat) (s : State) : (alignTo g s).phase = s.phase := rfl
@[simp] theorem alignTo_req (g : Nat) (s : State) : (alignTo g s).req = s.req := rfl
@[simp] theorem alignTo_addr (g : Nat) (s : State) : (alignTo g s).addr = BitVec.ofNat 32 (alignDown s.req.addr.toNat g) := rfl
@[simp] theorem alignTo_len (g : Nat) (s : State) : (alignTo g s).len = s.len := rfl
@[simp] theorem alignTo_rem (g : Nat) (s : State) : (alignTo g s).rem = s.rem := rfl
@[simp] theorem alignTo_off (g : Nat) (s : State) : (alignTo g s).off = s.off := rfl
@[simp] theorem alignTo_t0 (g : Nat) (s : State) : (alignTo g s).t0 = s.t0 := rfl
@[simp] theorem alignTo_tbudget (g : Nat) (s : State) : (alignTo g s).tbudget = s.tbudget := rfl
@[simp] theorem alignTo_sr (g : Nat) (s : State) : (alignTo g s).sr = s.sr := rfl
@[simp] theorem alignTo_cause (g : Nat) (s : State) : (alignTo g s).cause = s.cause := rfl
@[simp] theorem alignTo_rdata (g : Nat) (s : State) : (alignTo g s).rdata = s.rdata := rfl
@[simp] theorem alignTo_info (g : Nat) (s : State) : (alignTo g s).info = s.info := rfl
@[simp] theorem alignTo_cfg (g : Nat) (s : State) : (alignTo g s).cfg = s.cfg := rfl
@[simp] theorem alignTo_pos (g : Nat) (s : State) : (alignTo g s).pos = s.pos := rfl
@[simp] theorem alignTo_job (g : Nat) (s : State) : (alignTo g s).job = s.job := rfl
@[simp] theorem alignTo_frameRx (g : Nat) (s : State) : (alignTo g s).frameRx = s.frameRx := rfl
@[simp] theorem alignTo_frameTx (g : Nat) (s : State) : (alignTo g s).frameTx = s.frameTx := rfl
@[simp] theorem alignTo_inbox (g : Nat) (s : State) : (alignTo g s).inbox = s.inbox := rfl
@[simp] theorem alignTo_xfers (g : Nat) (s : State) : (alignTo g s).xfers = s.xfers := rfl
@[simp] theorem alignTo_millis (g : Nat) (s : State) : (alignTo g s).millis = s.millis := rfl
@[simp] theorem alignTo_foreignWindow (g : Nat) (s : State) : (alignTo g s).foreignWindow = s.foreignWindow := rfl
@[simp] theorem alignTo_resetLine (g : Nat) (s : State) : (alignTo g s).resetLine = s.resetLine := rfl
@[simp] theorem alignTo_byEvents (g : Nat) (s : State) : (alignTo g s).byEvents = s.byEvents := rfl
@[simp] theorem alignTo_trace (g : Nat) (s : State) : (alignTo g s).trace = s.trace := rfl
@[simp] theorem alignTo_unknownFlash (g : Nat) (s : State) : (alignTo g s).unknownFlash = s.unknownFlash := rfl

/-! `beginInit` -/
@[simp] theorem beginInit_init (s : State) : (beginInit s).init = false := rfl
@[simp] theorem beginInit_idMfr (s : State) : (beginInit s).idMfr = s.idMfr := rfl
@[simp] theorem beginInit_idType (s : State) : (beginInit s).idType = s.idType := rfl
@[simp] theorem beginInit_idCap (s : State) : (beginInit s).idCap = s.idCap := rfl
@[simp] theorem beginInit_uid (s : State) : (beginInit s).uid = s.uid := rfl
@[simp] theorem beginInit_cs (s : State) : (beginInit s).cs = false := rfl
@[simp] theorem beginInit_phase (s : State) : (beginInit s).phase = .idRead := rfl
@[simp] theorem beginInit_req (s : State) : (beginInit s).req = s.req := rfl
@[simp] theorem beginInit_addr (s : State) : (beginInit s).addr = s.addr := rfl
@[simp] theorem beginInit_len (s : State) : (beginInit s).len = s.len := rfl
@[simp] theorem beginInit_rem (s : State) : (beginInit s).rem = s.rem := rfl
@[simp] theorem beginInit_off (s : State) : (beginInit s).off = s.off := rfl
@[simp] theorem beginInit_t0 (s : State) : (beginInit s).t0 = s.t0 := rfl
@[simp] theorem beginInit_tbudget (s : State) : (beginInit s).tbudget = s.tbudget := rfl
@[simp] theorem beginInit_sr (s : State) : (beginInit s).sr = s.sr := rfl
@[simp] theorem beginInit_cause (s : State) : (beginInit s).cause = s.cause := rfl
@[simp] theorem beginInit_rdata (s : State) : (beginInit s).rdata = s.rdata := rfl
@[simp] theorem beginInit_info (s : State) : (beginInit s).info = s.info := rfl
@[simp] theorem beginInit_cfg (s : State) : (beginInit s).cfg = s.cfg := rfl
@[simp] theorem beginInit_pos (s : State) : (beginInit s).pos = .start := rfl
@[simp] theorem beginInit_job (s : State) : (beginInit s).job = s.job := rfl
@[simp] theorem beginInit_frameRx (s : State) : (beginInit s).frameRx = s.frameRx := rfl
@[simp] theorem beginInit_frameTx (s : State) : (beginInit s).frameTx = s.frameTx := rfl
@[simp] theorem beginInit_inbox (s : State) : (beginInit s).inbox = s.inbox := rfl
@[simp] theorem beginInit_xfers (s : State) : (beginInit s).xfers = s.xfers := rfl
@[simp] theorem beginInit_millis (s : State) : (beginInit s).millis = s.millis := rfl
@[simp] theorem beginInit_foreignWindow (s : State) : (beginInit s).foreignWindow = s.foreignWindow := rfl
@[simp] theorem beginInit_resetLine (s : State) : (beginInit s).resetLine = s.resetLine := rfl
@[simp] theorem beginInit_byEvents (s : State) : (beginInit s).byEvents = s.byEvents := rfl
@[simp] theorem beginInit_trace (s : State) : (beginInit s).trace = s.trace ++ [.select false] := rfl
@[simp] theorem beginInit_unknownFlash (s : State) : (beginInit s).unknownFlash = s.unknownFlash := rfl

/-! `cacheIdentity` -/
@[simp] theorem cacheIdentity_init (rx : List Byte) (s : State) : (cacheIdentity rx s).init = s.init := rfl
@[simp] theorem cacheIdentity_idMfr (rx : List Byte) (s : State) : (cacheIdentity rx s).idMfr = rxAt rx 1 := rfl
@[simp] theorem cacheIdentity_idType (rx : List Byte) (s : State) : (cacheIdentity rx s).idType = rxAt rx 2 := rfl
@[simp] theorem cacheIdentity_idCap (rx : List Byte) (s : State) : (cacheIdentity rx s).idCap = rxAt rx 3 := rfl
@[simp] theorem cacheIdentity_uid (rx : List Byte) (s : State) : (cacheIdentity rx s).uid = s.uid := rfl
@[simp] theorem cacheIdentity_cs (rx : List Byte) (s : State) : (cacheIdentity rx s).cs = s.cs := rfl
@[simp] theorem cacheIdentity_phase (rx : List Byte) (s : State) : (cacheIdentity rx s).phase = .uidRead := rfl
@[simp] theorem cacheIdentity_req (rx : List Byte) (s : State) : (cacheIdentity rx s).req = s.req := rfl
@[simp] theorem cacheIdentity_addr (rx : List Byte) (s : State) : (cacheIdentity rx s).addr = s.addr := rfl
@[simp] theorem cacheIdentity_len (rx : List Byte) (s : State) : (cacheIdentity rx s).len = s.len := rfl
@[simp] theorem cacheIdentity_rem (rx : List Byte) (s : State) : (cacheIdentity rx s).rem = s.rem := rfl
@[simp] theorem cacheIdentity_off (rx : List Byte) (s : State) : (cacheIdentity rx s).off = s.off := rfl
@[simp] theorem cacheIdentity_t0 (rx : List Byte) (s : State) : (cacheIdentity rx s).t0 = s.t0 := rfl
@[simp] theorem cacheIdentity_tbudget (rx : List Byte) (s : State) : (cacheIdentity rx s).tbudget = s.tbudget := rfl
@[simp] theorem cacheIdentity_sr (rx : List Byte) (s : State) : (cacheIdentity rx s).sr = s.sr := rfl
@[simp] theorem cacheIdentity_cause (rx : List Byte) (s : State) : (cacheIdentity rx s).cause = s.cause := rfl
@[simp] theorem cacheIdentity_rdata (rx : List Byte) (s : State) : (cacheIdentity rx s).rdata = s.rdata := rfl
@[simp] theorem cacheIdentity_info (rx : List Byte) (s : State) : (cacheIdentity rx s).info = s.info := rfl
@[simp] theorem cacheIdentity_cfg (rx : List Byte) (s : State) : (cacheIdentity rx s).cfg = s.cfg := rfl
@[simp] theorem cacheIdentity_pos (rx : List Byte) (s : State) : (cacheIdentity rx s).pos = .start := rfl
@[simp] theorem cacheIdentity_job (rx : List Byte) (s : State) : (cacheIdentity rx s).job = s.job := rfl
@[simp] theorem cacheIdentity_frameRx (rx : List Byte) (s : State) : (cacheIdentity rx s).frameRx = s.frameRx := rfl
@[simp] theorem cacheIdentity_frameTx (rx : List Byte) (s : State) : (cacheIdentity rx s).frameTx = s.frameTx := rfl
@[simp] theorem cacheIdentity_inbox (rx : List Byte) (s : State) : (cacheIdentity rx s).inbox = s.inbox := rfl
@[simp] theorem cacheIdentity_xfers (rx : List Byte) (s : State) : (cacheIdentity rx s).xfers = s.xfers := rfl
@[simp] theorem cacheIdentity_millis (rx : List Byte) (s : State) : (cacheIdentity rx s).millis = s.millis := rfl
@[simp] theorem cacheIdentity_foreignWindow (rx : List Byte) (s : State) : (cacheIdentity rx s).foreignWindow = s.foreignWindow := rfl
@[simp] theorem cacheIdentity_resetLine (rx : List Byte) (s : State) : (cacheIdentity rx s).resetLine = s.resetLine := rfl
@[simp] theorem cacheIdentity_byEvents (rx : List Byte) (s : State) : (cacheIdentity rx s).byEvents = s.byEvents := rfl
@[simp] theorem cacheIdentity_trace (rx : List Byte) (s : State) : (cacheIdentity rx s).trace = s.trace := rfl
@[simp] theorem cacheIdentity_unknownFlash (rx : List Byte) (s : State) : (cacheIdentity rx s).unknownFlash = s.unknownFlash := rfl

/-! `finishInit` -/
@[simp] theorem finishInit_init (rx : List Byte) (s : State) : (finishInit rx s).init = true := rfl
@[simp] theorem finishInit_idMfr (rx : List Byte) (s : State) : (finishInit rx s).idMfr = s.idMfr := rfl
@[simp] theorem finishInit_idType (rx : List Byte) (s : State) : (finishInit rx s).idType = s.idType := rfl
@[simp] theorem finishInit_idCap (rx : List Byte) (s : State) : (finishInit rx s).idCap = s.idCap := rfl
@[simp] theorem finishInit_uid (rx : List Byte) (s : State) : (finishInit rx s).uid = decodeUid rx := rfl
@[simp] theorem finishInit_cs (rx : List Byte) (s : State) : (finishInit rx s).cs = s.cs := rfl
@[simp] theorem finishInit_phase (rx : List Byte) (s : State) : (finishInit rx s).phase = s.phase := rfl
@[simp] theorem finishInit_req (rx : List Byte) (s : State) : (finishInit rx s).req = s.req := rfl
@[simp] theorem finishInit_addr (rx : List Byte) (s : State) : (finishInit rx s).addr = s.addr := rfl
@[simp] theorem finishInit_len (rx : List Byte) (s : State) : (finishInit rx s).len = s.len := rfl
@[simp] theorem finishInit_rem (rx : List Byte) (s : State) : (finishInit rx s).rem = s.rem := rfl
@[simp] theorem finishInit_off (rx : List Byte) (s : State) : (finishInit rx s).off = s.off := rfl
@[simp] theorem finishInit_t0 (rx : List Byte) (s : State) : (finishInit rx s).t0 = s.t0 := rfl
@[simp] theorem finishInit_tbudget (rx : List Byte) (s : State) : (finishInit rx s).tbudget = s.tbudget := rfl
@[simp] theorem finishInit_sr (rx : List Byte) (s : State) : (finishInit rx s).sr = s.sr := rfl
@[simp] theorem finishInit_cause (rx : List Byte) (s : State) : (finishInit rx s).cause = s.cause := rfl
@[simp] theorem finishInit_rdata (rx : List Byte) (s : State) : (finishInit rx s).rdata = s.rdata := rfl
@[simp] theorem finishInit_info (rx : List Byte) (s : State) : (finishInit rx s).info = s.info := rfl
@[simp] theorem finishInit_cfg (rx : List Byte) (s : State) : (finishInit rx s).cfg = s.cfg := rfl
@[simp] theorem finishInit_pos (rx : List Byte) (s : State) : (finishInit rx s).pos = s.pos := rfl
@[simp] theorem finishInit_job (rx : List Byte) (s : State) : (finishInit rx s).job = s.job := rfl
@[simp] theorem finishInit_frameRx (rx : List Byte) (s : State) : (finishInit rx s).frameRx = s.frameRx := rfl
@[simp] theorem finishInit_frameTx (rx : List Byte) (s : State) : (finishInit rx s).frameTx = s.frameTx := rfl
@[simp] theorem finishInit_inbox (rx : List Byte) (s : State) : (finishInit rx s).inbox = s.inbox := rfl
@[simp] theorem finishInit_xfers (rx : List Byte) (s : State) : (finishInit rx s).xfers = s.xfers := rfl
@[simp] theorem finishInit_millis (rx : List Byte) (s : State) : (finishInit rx s).millis = s.millis := rfl
@[simp] theorem finishInit_foreignWindow (rx : List Byte) (s : State) : (finishInit rx s).foreignWindow = s.foreignWindow := rfl
@[simp] theorem finishInit_resetLine (rx : List Byte) (s : State) : (finishInit rx s).resetLine = s.resetLine := rfl
@[simp] theorem finishInit_byEvents (rx : List Byte) (s : State) : (finishInit rx s).byEvents = s.byEvents := rfl
@[simp] theorem finishInit_trace (rx : List Byte) (s : State) : (finishInit rx s).trace = s.trace := rfl
@[simp] theorem finishInit_unknownFlash (rx : List Byte) (s : State) : (finishInit rx s).unknownFlash = s.unknownFlash := rfl

/-! `finishInfo` -/
@[simp] theorem finishInfo_init (rx : List Byte) (s : State) : (finishInfo rx s).init = s.init := rfl
@[simp] theorem finishInfo_idMfr (rx : List Byte) (s : State) : (finishInfo rx s).idMfr = s.idMfr := rfl
@[simp] theorem finishInfo_idType (rx : List Byte) (s : State) : (finishInfo rx s).idType = s.idType := rfl
@[simp] theorem finishInfo_idCap (rx : List Byte) (s : State) : (finishInfo rx s).idCap = s.idCap := rfl
@[simp] theorem finishInfo_uid (rx : List Byte) (s : State) : (finishInfo rx s).uid = decodeUid rx := rfl
@[simp] theorem finishInfo_cs (rx : List Byte) (s : State) : (finishInfo rx s).cs = s.cs := rfl
@[simp] theorem finishInfo_phase (rx : List Byte) (s : State) : (finishInfo rx s).phase = s.phase := rfl
@[simp] theorem finishInfo_req (rx : List Byte) (s : State) : (finishInfo rx s).req = s.req := rfl
@[simp] theorem finishInfo_addr (rx : List Byte) (s : State) : (finishInfo rx s).addr = s.addr := rfl
@[simp] theorem finishInfo_len (rx : List Byte) (s : State) : (finishInfo rx s).len = s.len := rfl
@[simp] theorem finishInfo_rem (rx : List Byte) (s : State) : (finishInfo rx s).rem = s.rem := rfl
@[simp] theorem finishInfo_off (rx : List Byte) (s : State) : (finishInfo rx s).off = s.off := rfl
@[simp] theorem finishInfo_t0 (rx : List Byte) (s : State) : (finishInfo rx s).t0 = s.t0 := rfl
@[simp] theorem finishInfo_tbudget (rx : List Byte) (s : State) : (finishInfo rx s).tbudget = s.tbudget := rfl
@[simp] theorem finishInfo_sr (rx : List Byte) (s : State) : (finishInfo rx s).sr = s.sr := rfl
@[simp] theorem finishInfo_cause (rx : List Byte) (s : State) : (finishInfo rx s).cause = s.cause := rfl
@[simp] theorem finishInfo_rdata (rx : List Byte) (s : State) : (finishInfo rx s).rdata = s.rdata := rfl
@[simp] theorem finishInfo_info (rx : List Byte) (s : State) : (finishInfo rx s).info = [s.idMfr, s.idType, s.idCap] ++ decodeUid rx := rfl
@[simp] theorem finishInfo_cfg (rx : List Byte) (s : State) : (finishInfo rx s).cfg = s.cfg := rfl
@[simp] theorem finishInfo_pos (rx : List Byte) (s : State) : (finishInfo rx s).pos = s.pos := rfl
@[simp] theorem finishInfo_job (rx : List Byte) (s : State) : (finishInfo rx s).job = s.job := rfl
@[simp] theorem finishInfo_frameRx (rx : List Byte) (s : State) : (finishInfo rx s).frameRx = s.frameRx := rfl
@[simp] theorem finishInfo_frameTx (rx : List Byte) (s : State) : (finishInfo rx s).frameTx = s.frameTx := rfl
@[simp] theorem finishInfo_inbox (rx : List Byte) (s : State) : (finishInfo rx s).inbox = s.inbox := rfl
@[simp] theorem finishInfo_xfers (rx : List Byte) (s : State) : (finishInfo rx s).xfers = s.xfers := rfl
@[simp] theorem finishInfo_millis (rx : List Byte) (s : State) : (finishInfo rx s).millis = s.millis := rfl
@[simp] theorem finishInfo_foreignWindow (rx : List Byte) (s : State) : (finishInfo rx s).foreignWindow = s.foreignWindow := rfl
@[simp] theorem finishInfo_resetLine (rx : List Byte) (s : State) : (finishInfo rx s).resetLine = s.resetLine := rfl
@[simp] theorem finishInfo_byEvents (rx : List Byte) (s : State) : (finishInfo rx s).byEvents = s.byEvents := rfl
@[simp] theorem finishInfo_trace (rx : List Byte) (s : State) : (finishInfo rx s).trace = s.trace := rfl
@[simp] theorem finishInfo_unknownFlash (rx : List Byte) (s : State) : (finishInfo rx s).unknownFlash = s.unknownFlash := rfl

/-! `beginSplit` -/
@[simp] theorem beginSplit_init (s : State) : (beginSplit s).init = s.init := rfl
@[simp] theorem beginSplit_idMfr (s : State) : (beginSplit s).idMfr = s.idMfr := rfl
@[simp] theorem beginSplit_idType (s : State) : (beginSplit s).idType = s.idType := rfl
@[simp] theorem beginSplit_idCap (s : State) : (beginSplit s).idCap = s.idCap := rfl
@[simp] theorem beginSplit_uid (s : State) : (beginSplit s).uid = s.uid := rfl
@[simp] theorem beginSplit_cs (s : State) : (beginSplit s).cs = s.cs := rfl
@[simp] theorem beginSplit_phase (s : State) : (beginSplit s).phase = .split := rfl
@[simp] theorem beginSplit_req (s : State) : (beginSplit s).req = s.req := rfl
@[simp] theorem beginSplit_addr (s : State) : (beginSplit s).addr = s.req.addr := rfl
@[simp] theorem beginSplit_len (s : State) : (beginSplit s).len = s.len := rfl
@[simp] theorem beginSplit_rem (s : State) : (beginSplit s).rem = s.req.len := rfl
@[simp] theorem beginSplit_off (s : State) : (beginSplit s).off = 0 := rfl
@[simp] theorem beginSplit_t0 (s : State) : (beginSplit s).t0 = s.t0 := rfl
@[simp] theorem beginSplit_tbudget (s : State) : (beginSplit s).tbudget = s.tbudget := rfl
@[simp] theorem beginSplit_sr (s : State) : (beginSplit s).sr = s.sr := rfl
@[simp] theorem beginSplit_cause (s : State) : (beginSplit s).cause = s.cause := rfl
@[simp] theorem beginSplit_rdata (s : State) : (beginSplit s).rdata = s.rdata := rfl
@[simp] theorem beginSplit_info (s : State) : (beginSplit s).info = s.info := rfl
@[simp] theorem beginSplit_cfg (s : State) : (beginSplit s).cfg = s.cfg := rfl
@[simp] theorem beginSplit_pos (s : State) : (beginSplit s).pos = .start := rfl
@[simp] theorem beginSplit_job (s : State) : (beginSplit s).job = s.job := rfl
@[simp] theorem beginSplit_frameRx (s : State) : (beginSplit s).frameRx = s.frameRx := rfl
@[simp] theorem beginSplit_frameTx (s : State) : (beginSplit s).frameTx = s.frameTx := rfl
@[simp] theorem beginSplit_inbox (s : State) : (beginSplit s).inbox = s.inbox := rfl
@[simp] theorem beginSplit_xfers (s : State) : (beginSplit s).xfers = s.xfers := rfl
@[simp] theorem beginSplit_millis (s : State) : (beginSplit s).millis = s.millis := rfl
@[simp] theorem beginSplit_foreignWindow (s : State) : (beginSplit s).foreignWindow = s.foreignWindow := rfl
@[simp] theorem beginSplit_resetLine (s : State) : (beginSplit s).resetLine = s.resetLine := rfl
@[simp] theorem beginSplit_byEvents (s : State) : (beginSplit s).byEvents = s.byEvents := rfl
@[simp] theorem beginSplit_trace (s : State) : (beginSplit s).trace = s.trace := rfl
@[simp] theorem beginSplit_unknownFlash (s : State) : (beginSplit s).unknownFlash = s.unknownFlash := rfl

/-! `nextChunk` -/
@[simp] theorem nextChunk_init (s : State) : (nextChunk s).init = s.init := rfl
@[simp] theorem nextChunk_idMfr (s : State) : (nextChunk s).idMfr = s.idMfr := rfl
@[simp] theorem nextChunk_idType (s : State) : (nextChunk s).idType = s.idType := rfl
@[simp] theorem nextChunk_idCap (s : State) : (nextChunk s).idCap = s.idCap := rfl
@[simp] theorem nextChunk_uid (s : State) : (nextChunk s).uid = s.uid := rfl
@[simp] theorem nextChunk_cs (s : State) : (nextChunk s).cs = s.cs := rfl
@[simp] theorem nextChunk_phase (s : State) : (nextChunk s).phase = s.phase := rfl
@[simp] theorem nextChunk_req (s : State) : (nextChunk s).req = s.req := rfl
@[simp] theorem nextChunk_addr (s : State) : (nextChunk s).addr = s.addr := rfl
@[simp] theorem nextChunk_len (s : State) : (nextChunk s).len = BitVec.ofNat 32 (chunkLen s.cfg s.addr.toNat s.rem.toNat) := rfl
@[simp] theorem nextChunk_rem (s : State) : (nextChunk s).rem = s.rem := rfl
@[simp] theorem nextChunk_off (s : State) : (nextChunk s).off = s.off := rfl
@[simp] theorem nextChunk_t0 (s : State) : (nextChunk s).t0 = s.t0 := rfl
@[simp] theorem nextChunk_tbudget (s : State) : (nextChunk s).tbudget = s.tbudget := rfl
@[simp] theorem nextChunk_sr (s : State) : (nextChunk s).sr = s.sr := rfl
@[simp] theorem nextChunk_cause (s : State) : (nextChunk s).cause = s.cause := rfl
@[simp] theorem nextChunk_rdata (s : State) : (nextChunk s).rdata = s.rdata := rfl
@[simp] theorem nextChunk_info (s : State) : (nextChunk s).info = s.info := rfl
@[simp] theorem nextChunk_cfg (s : State) : (nextChunk s).cfg = s.cfg := rfl
@[simp] theorem nextChunk_pos (s : State) : (nextChunk s).pos = s.pos := rfl
@[simp] theorem nextChunk_job (s : State) : (nextChunk s).job = s.job := rfl
@[simp] theorem nextChunk_frameRx (s : State) : (nextChunk s).frameRx = s.frameRx := rfl
@[simp] theorem nextChunk_frameTx (s : State) : (nextChunk s).frameTx = s.frameTx := rfl
@[simp] theorem nextChunk_inbox (s : State) : (nextChunk s).inbox = s.inbox := rfl
@[simp] theorem nextChunk_xfers (s : State) : (nextChunk s).xfers = s.xfers := rfl
@[simp] theorem nextChunk_millis (s : State) : (nextChunk s).millis = s.millis := rfl
@[simp] theorem nextChunk_foreignWindow (s : State) : (nextChunk s).foreignWindow = s.foreignWindow := rfl
@[simp] theorem nextChunk_resetLine (s : State) : (nextChunk s).resetLine = s.resetLine := rfl
@[simp] theorem nextChunk_byEvents (s : State) : (nextChunk s).byEvents = s.byEvents := rfl
@[simp] theorem nextChunk_trace (s : State) : (nextChunk s).trace = s.trace := rfl
@[simp] theorem nextChunk_unknownFlash (s : State) : (nextChunk s).unknownFlash = s.unknownFlash := rfl

/-! `advance` -/
@[simp] theorem advance_init (s : State) : (advance s).init = s.init := rfl
@[simp] theorem advance_idMfr (s : State) : (advance s).idMfr = s.idMfr := rfl
@[simp] theorem advance_idType (s : State) : (advance s).idType = s.idType := rfl
@[simp] theorem advance_idCap (s : State) : (advance s).idCap = s.idCap := rfl
@[simp] theorem advance_uid (s : State) : (advance s).uid = s.uid := rfl
@[simp] theorem advance_cs (s : State) : (advance s).cs = s.cs := rfl
@[simp] theorem advance_phase (s : State) : (advance s).phase = .split := rfl
@[simp] theorem advance_req (s : State) : (advance s).req = s.req := rfl
@[simp] theorem advance_addr (s : State) : (advance s).addr = s.addr + s.len := rfl
@[simp] theorem advance_len (s : State) : (advance s).len = s.len := rfl
@[simp] theorem advance_rem (s : State) : (advance s).rem = s.rem - s.len := rfl
@[simp] theorem advance_off (s : State) : (advance s).off = s.off + s.len := rfl
@[simp] theorem advance_t0 (s : State) : (advance s).t0 = s.t0 := rfl
@[simp] theorem advance_tbudget (s : State) : (advance s).tbudget = s.tbudget := rfl
@[simp] theorem advance_sr (s : State) : (advance s).sr = s.sr := rfl
@[simp] theorem advance_cause (s : State) : (advance s).cause = s.cause := rfl
@[simp] theorem advance_rdata (s : State) : (advance s).rdata = s.rdata := rfl
@[simp] theorem advance_info (s : State) : (advance s).info = s.info := rfl
@[simp] theorem advance_cfg (s : State) : (advance s).cfg = s.cfg := rfl
@[simp] theorem advance_pos (s : State) : (advance s).pos = .start := rfl
@[simp] theorem advance_job (s : State) : (advance s).job = s.job := rfl
@[simp] theorem advance_frameRx (s : State) : (advance s).frameRx = s.frameRx := rfl
@[simp] theorem advance_frameTx (s : State) : (advance s).frameTx = s.frameTx := rfl
@[simp] theorem advance_inbox (s : State) : (advance s).inbox = s.inbox := rfl
@[simp] theorem advance_xfers (s : State) : (advance s).xfers = s.xfers := rfl
@[simp] theorem advance_millis (s : State) : (advance s).millis = s.millis := rfl
@[simp] theorem advance_foreignWindow (s : State) : (advance s).foreignWindow = s.foreignWindow := rfl
@[simp] theorem advance_resetLine (s : State) : (advance s).resetLine = s.resetLine := rfl
@[simp] theorem advance_byEvents (s : State) : (advance s).byEvents = s.byEvents := rfl
@[simp] theorem advance_trace (s : State) : (advance s).trace = s.trace := rfl
@[simp] theorem advance_unknownFlash (s : State) : (advance s).unknownFlash = s.unknownFlash := rfl

/-! Going on after a procedure. -/
@[simp] theorem andThen_ok {α β : Type} (a : α) (s : State) (f : α → State → Run β) :
    (Run.ok a s).andThen f = f a s := rfl
@[simp] theorem andThen_err {α β : Type} (c : Cause) (s : State) (f : α → State → Run β) :
    (Run.err c s : Run α).andThen f = .err c s := rfl
@[simp] theorem andThen_wait {α β : Type} (s : State) (f : α → State → Run β) :
    (Run.wait s : Run α).andThen f = .wait s := rfl
@[simp] theorem conclude_ok (s : State) : conclude (.ok () s) = .next (respondOk (s.enter .done)) := rfl
@[simp] theorem conclude_err (c : Cause) (s : State) : conclude (.err c s) = .next (respondError (raise c s)) := rfl
@[simp] theorem conclude_wait (s : State) : conclude (.wait s) = .next s := rfl

end Sys2Proof.Machine
end

