-- ==== Sys2Proof/Laws/Ops.lean ====
section
/-! SUPPORT. What each shared operation can do, said once: the answer of a Transfer, the two bus windows, reading the
counter, and the polling loop. -/

namespace Sys2Proof.Machine

/-! ## Transfers -/

@[simp] theorem view_fault (n : Nat) : XferAnswer.fault.view n = none := rfl

theorem view_ok {rx : List Byte} {n : Nat} (h : rx.length = n) : (XferAnswer.ok rx).view n = some rx := by
  simp [XferAnswer.view, h]

/-- A Transfer returns bytes exactly when the answer is `ok` with as many bytes as were sent. -/
theorem view_eq_some {x : XferAnswer} {n : Nat} {rx : List Byte} :
    x.view n = some rx ↔ x = .ok rx ∧ rx.length = n := by
  cases x with
  | fault => simp
  | ok r =>
    by_cases h : r.length = n
    · simp only [XferAnswer.view, h, if_true, Option.some.injEq, XferAnswer.ok.injEq]
      constructor
      · rintro rfl; exact ⟨rfl, h⟩
      · exact fun hh => hh.1
    · simp only [XferAnswer.view, h, if_false, reduceCtorEq, XferAnswer.ok.injEq, false_iff]
      rintro ⟨rfl, hh⟩; exact h hh

theorem transfer_nil {tx : List Byte} {later : List (List Byte)} {s : State} (h : s.xfers = []) :
    transfer tx later s = .wait (s.stay (.sending (tx :: later))) := by
  simp [transfer, h]

theorem transfer_cons {tx : List Byte} {later : List (List Byte)} {s : State} {x : XferAnswer}
    {xs : List XferAnswer} (h : s.xfers = x :: xs) :
    transfer tx later s =
      .ok (x.view tx.length) ({ s with xfers := xs }.emit (.transfer tx (x.view tx.length))) := by
  simp [transfer, h]

/-- The transport has no answer, or a next one. -/
theorem xfers_cases (s : State) : s.xfers = [] ∨ ∃ x xs, s.xfers = x :: xs := by
  cases h : s.xfers with
  | nil => exact .inl rfl
  | cons x xs => exact .inr ⟨x, xs, rfl⟩

/-! ## Windows -/

/-- A window whose one Transfer is answered. -/
theorem frame_ok {tx : List Byte} {s : State} {rx : List Byte} {xs : List XferAnswer}
    (h : s.xfers = .ok rx :: xs) (hl : rx.length = tx.length) :
    frame tx s = .ok rx { s with
        cs := false, xfers := xs
        trace := s.trace ++ windowEvents [tx] [rx] } := by
  simp [frame, transfer, h, view_ok hl, closeWindow, windowEvents, State.select, State.emit]

/-- A window whose one Transfer faults: chip-select is deasserted, and the cause is TransportFault. -/
theorem frame_fault {tx : List Byte} {s : State} {x : XferAnswer} {xs : List XferAnswer}
    (h : s.xfers = x :: xs) (hl : x.view tx.length = none) :
    frame tx s = .err .transportFault { s with
        cs := false, xfers := xs
        trace := s.trace ++ [.select true, .transfer tx none, .select false] } := by
  simp [frame, transfer, h, hl, closeWindow, State.select, State.emit]

/-- A window whose Transfer is not answered stays open. -/
theorem frame_wait {tx : List Byte} {s : State} (h : s.xfers = []) :
    frame tx s = .wait { s with cs := true, pos := .sending [tx], trace := s.trace ++ [.select true] } := by
  simp [frame, transfer, h, State.select, State.emit, State.stay]

/-- Everything a one-transfer window can do. -/
theorem frame_cases (tx : List Byte) (s : State) :
    (∃ rx xs, s.xfers = .ok rx :: xs ∧ rx.length = tx.length ∧
      frame tx s = .ok rx { s with cs := false, xfers := xs, trace := s.trace ++ windowEvents [tx] [rx] }) ∨
    (∃ x xs, s.xfers = x :: xs ∧ x.view tx.length = none ∧
      frame tx s = .err .transportFault { s with
          cs := false, xfers := xs
          trace := s.trace ++ [.select true, .transfer tx none, .select false] }) ∨
    (s.xfers = [] ∧
      frame tx s = .wait { s with cs := true, pos := .sending [tx], trace := s.trace ++ [.select true] }) := by
  obtain h | ⟨x, xs, h⟩ := xfers_cases s
  · exact .inr (.inr ⟨h, frame_wait h⟩)
  · cases hv : x.view tx.length with
    | none => exact .inr (.inl ⟨x, xs, h, hv, frame_fault h hv⟩)
    | some rx =>
      obtain ⟨rfl, hl⟩ := view_eq_some.1 hv
      exact .inl ⟨rx, xs, h, hl, frame_ok h hl⟩

/-- A two-transfer window with both Transfers answered; the header's bytes are discarded. -/
theorem frame2_ok {hdr body : List Byte} {s : State} {r1 r2 : List Byte} {xs : List XferAnswer}
    (h : s.xfers = .ok r1 :: .ok r2 :: xs) (h1 : r1.length = hdr.length) (h2 : r2.length = body.length) :
    frame2 hdr body s = .ok r2 { s with
        cs := false, xfers := xs
        trace := s.trace ++ windowEvents [hdr, body] [r1, r2] } := by
  simp [frame2, transfer, h, view_ok h1, view_ok h2, closeWindow, windowEvents, State.select, State.emit]

/-- The header's Transfer faults: the body is never sent. -/
theorem frame2_fault_hdr {hdr body : List Byte} {s : State} {x : XferAnswer} {xs : List XferAnswer}
    (h : s.xfers = x :: xs) (hv : x.view hdr.length = none) :
    frame2 hdr body s = .err .transportFault { s with
        cs := false, xfers := xs
        trace := s.trace ++ [.select true, .transfer hdr none, .select false] } := by
  simp [frame2, transfer, h, hv, closeWindow, State.select, State.emit]

/-- The body's Transfer faults. -/
theorem frame2_fault_body {hdr body : List Byte} {s : State} {r1 : List Byte} {x : XferAnswer}
    {xs : List XferAnswer} (h : s.xfers = .ok r1 :: x :: xs) (h1 : r1.length = hdr.length)
    (hv : x.view body.length = none) :
    frame2 hdr body s = .err .transportFault { s with
        cs := false, xfers := xs
        trace := s.trace ++ [.select true, .transfer hdr (some r1), .transfer body none, .select false] } := by
  simp [frame2, transfer, h, view_ok h1, hv, closeWindow, State.select, State.emit]

/-- Neither Transfer is answered. -/
theorem frame2_wait_hdr {hdr body : List Byte} {s : State} (h : s.xfers = []) :
    frame2 hdr body s =
      .wait { s with cs := true, pos := .sending [hdr, body], trace := s.trace ++ [.select true] } := by
  simp [frame2, transfer, h, State.select, State.emit, State.stay]

/-- The header is answered, the body is not. -/
theorem frame2_wait_body {hdr body : List Byte} {s : State} {r1 : List Byte} (h : s.xfers = [.ok r1])
    (h1 : r1.length = hdr.length) :
    frame2 hdr body s = .wait { s with
        cs := true, xfers := [], pos := .sending [body]
        trace := s.trace ++ [.select true, .transfer hdr (some r1)] } := by
  simp [frame2, transfer, h, view_ok h1, State.select, State.emit, State.stay]

/-- Everything a two-transfer window can do. -/
theorem frame2_cases (hdr body : List Byte) (s : State) :
    (∃ r1 r2 xs, s.xfers = .ok r1 :: .ok r2 :: xs ∧ r1.length = hdr.length ∧ r2.length = body.length ∧
      frame2 hdr body s = .ok r2 { s with
          cs := false, xfers := xs
          trace := s.trace ++ windowEvents [hdr, body] [r1, r2] }) ∨
    (∃ x xs, s.xfers = x :: xs ∧ x.view hdr.length = none ∧
      frame2 hdr body s = .err .transportFault { s with
          cs := false, xfers := xs
          trace := s.trace ++ [.select true, .transfer hdr none, .select false] }) ∨
    (∃ r1 x xs, s.xfers = .ok r1 :: x :: xs ∧ r1.length = hdr.length ∧ x.view body.length = none ∧
      frame2 hdr body s = .err .transportFault { s with
          cs := false, xfers := xs
          trace := s.trace ++ [.select true, .transfer hdr (some r1), .transfer body none, .select false] }) ∨
    (s.xfers = [] ∧ frame2 hdr body s =
      .wait { s with cs := true, pos := .sending [hdr, body], trace := s.trace ++ [.select true] }) ∨
    (∃ r1, s.xfers = [.ok r1] ∧ r1.length = hdr.length ∧ frame2 hdr body s =
      .wait { s with
          cs := true, xfers := [], pos := .sending [body]
          trace := s.trace ++ [.select true, .transfer hdr (some r1)] }) := by
  obtain h | ⟨x, xs, h⟩ := xfers_cases s
  · exact .inr (.inr (.inr (.inl ⟨h, frame2_wait_hdr h⟩)))
  · cases hv : x.view hdr.length with
    | none => exact .inr (.inl ⟨x, xs, h, hv, frame2_fault_hdr h hv⟩)
    | some r1 =>
      obtain ⟨rfl, h1⟩ := view_eq_some.1 hv
      cases xs with
      | nil => exact .inr (.inr (.inr (.inr ⟨r1, h, h1, frame2_wait_body h h1⟩)))
      | cons y ys =>
        cases hw : y.view body.length with
        | none => exact .inr (.inr (.inl ⟨r1, y, ys, h, h1, hw, frame2_fault_body h h1 hw⟩))
        | some r2 =>
          obtain ⟨rfl, h2⟩ := view_eq_some.1 hw
          exact .inl ⟨r1, r2, ys, h, h1, h2, frame2_ok h h1 h2⟩

/-! ## The counter -/

theorem readMillis_nil {p : Pos} {s : State} (h : s.millis = []) : readMillis p s = .wait (s.stay p) := by
  simp [readMillis, h]

theorem readMillis_cons {p : Pos} {s : State} {v : U32} {ms : List U32} (h : s.millis = v :: ms) :
    readMillis p s = .ok v ({ s with millis := ms }.emit (.millis v)) := by
  simp [readMillis, h]

/-! ## The polling loop -/

/-- A poll that finds BUSY clear ends the wait, however late it comes. -/
theorem pollLoop_ready {ms : List U32} {s : State} {rx : List Byte} {xs : List XferAnswer}
    (h : s.xfers = .ok rx :: xs) (hl : rx.length = 2) (hb : busyFlag (rxAt rx 1) = false) :
    pollLoop ms s = .ok () { s with
        cs := false, xfers := xs, sr := rxAt rx 1
        trace := s.trace ++ windowEvents [frameRDSR s.cfg] [rx] } := by
  rw [pollLoop.eq_def, frame_ok h (by simpa [frameRDSR, fill] using hl)]
  simp [hb]

/-- A poll whose Transfer faults ends the wait with TransportFault, whatever the time (60_exceptions.md R233 (c)). -/
theorem pollLoop_fault {ms : List U32} {s : State} {x : XferAnswer} {xs : List XferAnswer}
    (h : s.xfers = x :: xs) (hv : x.view 2 = none) :
    pollLoop ms s = .err .transportFault { s with
        cs := false, xfers := xs
        trace := s.trace ++ [.select true, .transfer (frameRDSR s.cfg) none, .select false] } := by
  rw [pollLoop.eq_def, frame_fault h (by simpa [frameRDSR, fill] using hv)]
  rfl

/-- A poll whose Transfer is not answered. -/
theorem pollLoop_wait {ms : List U32} {s : State} (h : s.xfers = []) :
    pollLoop ms s = .wait { s with
        cs := true, pos := .sending [frameRDSR s.cfg]
        trace := s.trace ++ [.select true] } := by
  rw [pollLoop.eq_def, frame_wait h]; rfl

/-- A busy poll with no reading to come. -/
theorem pollLoop_busy_wait {s : State} {rx : List Byte} {xs : List XferAnswer}
    (h : s.xfers = .ok rx :: xs) (hl : rx.length = 2) (hb : busyFlag (rxAt rx 1) = true) :
    pollLoop [] s = .wait { s with
        cs := false, xfers := xs, sr := rxAt rx 1, pos := .busy
        trace := s.trace ++ windowEvents [frameRDSR s.cfg] [rx] } := by
  rw [pollLoop.eq_def, frame_ok h (by simpa [frameRDSR, fill] using hl)]
  simp [hb, State.stay]

/-- A busy poll at a reading where the budget has elapsed. -/
theorem pollLoop_timeout {now : U32} {ms : List U32} {s : State} {rx : List Byte} {xs : List XferAnswer}
    (h : s.xfers = .ok rx :: xs) (hl : rx.length = 2) (hb : busyFlag (rxAt rx 1) = true)
    (ht : timedOut s.t0 s.tbudget now = true) :
    pollLoop (now :: ms) s = .err .timeout { s with
        cs := false, xfers := xs, sr := rxAt rx 1, millis := ms
        trace := s.trace ++ (windowEvents [frameRDSR s.cfg] [rx] ++ [.millis now]) } := by
  rw [pollLoop.eq_def, frame_ok h (by simpa [frameRDSR, fill] using hl)]
  simp [hb, ht, State.emit]

/-- A busy poll before the budget has elapsed: sleep, and poll again. -/
theorem pollLoop_again {now : U32} {ms : List U32} {s : State} {rx : List Byte} {xs : List XferAnswer}
    (h : s.xfers = .ok rx :: xs) (hl : rx.length = 2) (hb : busyFlag (rxAt rx 1) = true)
    (ht : timedOut s.t0 s.tbudget now = false) :
    pollLoop (now :: ms) s = pollLoop ms { s with
        cs := false, xfers := xs, sr := rxAt rx 1, millis := ms
        trace := s.trace ++
          (windowEvents [frameRDSR s.cfg] [rx] ++ [.millis now, .sleep s.cfg.pollMs]) } := by
  rw [pollLoop.eq_def, frame_ok h (by simpa [frameRDSR, fill] using hl)]
  simp [hb, ht, State.emit, State.sleep]

/-- One round of the loop: everything it can do. -/
theorem pollLoop_cases (ms : List U32) (s : State) :
    (∃ rx xs, s.xfers = .ok rx :: xs ∧ rx.length = 2 ∧ busyFlag (rxAt rx 1) = false ∧
      pollLoop ms s = .ok () { s with
          cs := false, xfers := xs, sr := rxAt rx 1
          trace := s.trace ++ windowEvents [frameRDSR s.cfg] [rx] }) ∨
    (∃ x xs, s.xfers = x :: xs ∧ x.view 2 = none ∧
      pollLoop ms s = .err .transportFault { s with
          cs := false, xfers := xs
          trace := s.trace ++ [.select true, .transfer (frameRDSR s.cfg) none, .select false] }) ∨
    (s.xfers = [] ∧
      pollLoop ms s = .wait { s with
          cs := true, pos := .sending [frameRDSR s.cfg]
          trace := s.trace ++ [.select true] }) ∨
    (∃ rx xs, ms = [] ∧ s.xfers = .ok rx :: xs ∧ rx.length = 2 ∧ busyFlag (rxAt rx 1) = true ∧
      pollLoop ms s = .wait { s with
          cs := false, xfers := xs, sr := rxAt rx 1, pos := .busy
          trace := s.trace ++ windowEvents [frameRDSR s.cfg] [rx] }) ∨
    (∃ rx xs now rest, ms = now :: rest ∧ s.xfers = .ok rx :: xs ∧ rx.length = 2 ∧
      busyFlag (rxAt rx 1) = true ∧ timedOut s.t0 s.tbudget now = true ∧
      pollLoop ms s = .err .timeout { s with
          cs := false, xfers := xs, sr := rxAt rx 1, millis := rest
          trace := s.trace ++ (windowEvents [frameRDSR s.cfg] [rx] ++ [.millis now]) }) ∨
    (∃ rx xs now rest, ms = now :: rest ∧ s.xfers = .ok rx :: xs ∧ rx.length = 2 ∧
      busyFlag (rxAt rx 1) = true ∧ timedOut s.t0 s.tbudget now = false ∧
      pollLoop ms s = pollLoop rest { s with
          cs := false, xfers := xs, sr := rxAt rx 1, millis := rest
          trace := s.trace ++
            (windowEvents [frameRDSR s.cfg] [rx] ++ [.millis now, .sleep s.cfg.pollMs]) }) := by
  obtain h | ⟨x, xs, h⟩ := xfers_cases s
  · exact .inr (.inr (.inl ⟨h, pollLoop_wait h⟩))
  · cases hv : x.view 2 with
    | none => exact .inr (.inl ⟨x, xs, h, hv, pollLoop_fault h hv⟩)
    | some rx =>
      obtain ⟨rfl, hl⟩ := view_eq_some.1 hv
      cases hb : busyFlag (rxAt rx 1) with
      | false => exact .inl ⟨rx, xs, h, hl, hb, pollLoop_ready h hl hb⟩
      | true =>
        cases ms with
        | nil => exact .inr (.inr (.inr (.inl ⟨rx, xs, rfl, h, hl, hb, pollLoop_busy_wait h hl hb⟩)))
        | cons now rest =>
          cases ht : timedOut s.t0 s.tbudget now with
          | true => exact .inr (.inr (.inr (.inr (.inl
              ⟨rx, xs, now, rest, rfl, h, hl, hb, ht, pollLoop_timeout h hl hb ht⟩))))
          | false => exact .inr (.inr (.inr (.inr (.inr
              ⟨rx, xs, now, rest, rfl, h, hl, hb, ht, pollLoop_again h hl hb ht⟩))))

/-- The loop along the busy polls and the last poll of a good script. -/
theorem pollLoop_script {budget : U32} (busy : List BusyPoll) {last : List Byte} {s : State}
    {xs : List XferAnswer} {ms : List U32} (hb : s.tbudget = budget)
    (hg : WaitScript.Good budget ⟨s.t0, busy, last⟩)
    (hx : s.xfers = busy.map (fun p => .ok p.rx) ++ .ok last :: xs)
    (hm : s.millis = busy.map BusyPoll.now ++ ms) :
    pollLoop s.millis s = .ok () { s with
        cs := false, xfers := xs, millis := ms, sr := rxAt last 1
        trace := s.trace ++ (busy.flatMap (fun p => windowEvents [frameRDSR s.cfg] [p.rx] ++
          [.millis p.now, .sleep s.cfg.pollMs]) ++ windowEvents [frameRDSR s.cfg] [last]) } := by
  induction busy generalizing s with
  | nil =>
    simp only [List.map_nil, List.nil_append] at hx hm
    rw [pollLoop_ready hx hg.2.1 hg.2.2]
    simp [← hm]
  | cons p ps ih =>
    obtain ⟨hl, hbp, htp⟩ := hg.1 p (by simp)
    simp only [List.map_cons, List.cons_append] at hx hm
    rw [hm, pollLoop_again hx hl hbp (hb ▸ htp)]
    have := ih (s := { s with
        cs := false
        xfers := ps.map (fun p => .ok p.rx) ++ .ok last :: xs
        sr := rxAt p.rx 1
        millis := ps.map BusyPoll.now ++ ms
        trace := s.trace ++ (windowEvents [frameRDSR s.cfg] [p.rx] ++ [.millis p.now, .sleep s.cfg.pollMs]) })
      hb ⟨fun q hq => hg.1 q (by simp [hq]), hg.2⟩ rfl rfl
    rw [this]
    simp

/-- A whole wait along a good script: it returns, and its events are the script's. -/
theorem waitLoop_script {budget : U32} {w : WaitScript} {s : State} {xs : List XferAnswer} {ms : List U32}
    (hb : s.tbudget = budget) (hg : w.Good budget) (hx : s.xfers = w.answers ++ xs)
    (hm : s.millis = w.readings ++ ms) :
    waitLoop s = .ok () { s with
        cs := false, xfers := xs, millis := ms, t0 := w.t0, sr := rxAt w.last 1
        trace := s.trace ++ w.events s.cfg } := by
  rcases w with ⟨t0, busy, last⟩
  simp only [WaitScript.answers, WaitScript.readings, List.cons_append] at hx hm
  rw [waitLoop, readMillis_cons hm]
  have := pollLoop_script (budget := budget) busy (last := last) (xs := xs) (ms := ms)
    (s := { s with
      millis := busy.map BusyPoll.now ++ ms, t0 := t0, trace := s.trace ++ [.millis t0] }) hb hg
    (by simpa using hx) rfl
  simp only [andThen_ok, State.emit] at this ⊢
  rw [this]
  simp [WaitScript.events]

end Sys2Proof.Machine
end

