-- ==== Sys2Proof/Laws/Decode.lean ====
section
/-! SUPPORT. What decoding an offer can give, and that the acceptance of an offer is that of the instruction it decodes
to. -/

namespace Sys2Proof.Machine

/-! ## Wire frames by themselves -/

theorem framePhase_issued {i : Instr} (h : i ≠ .rdid) : framePhase i = .commandIssue := if_neg h
theorem issuedParts_issued {cfg : Config} {i : Instr} (h : i ≠ .rdid) : issuedParts cfg i = wireParts cfg i := if_neg h
theorem framePhase_ne_idle (i : Instr) : framePhase i ≠ .idle := by
  unfold framePhase; split <;> simp

/-! ## Decoding -/

/-- Encoding what a request record decodes to gives the record back. -/
theorem encode_decodeRequest (cfg : Config) (r : Request) : encode cfg (decodeRequest r) = .request r := by
  rcases r with ⟨q, op⟩
  have hi : ∀ op : BitVec 4, 12 ≤ op.toNat → 0b11#2 ++ op.extractLsb' 0 2 = op := by decide
  have h : ∀ op : BitVec 4, encode cfg (decodeRequest ⟨q, op⟩) = .request ⟨q, op⟩ := by
    intro op
    rcases op with ⟨⟨n, hn⟩⟩
    have : n < 16 := hn
    interval_cases n <;> first
      | rfl
      | exact congrArg (fun o => Offer.request ⟨q, o⟩) (hi _ (Nat.le_of_ble_eq_true rfl))
  exact h op

theorem ite_eq_cases {α : Type} {c : Prop} [Decidable c] {a b x : α} (h : (if c then a else b) = x) :
    a = x ∨ b = x := by
  split at h
  · exact .inl h
  · exact .inr h

theorem decodeAddressed_ok {f : BitVec 24 → List Byte → Except Reject Instr} {op : Byte} {rest : List Byte} {i : Instr}
    (h : decodeAddressed f op rest = .ok i) : ∃ a data, f a data = .ok i := by
  unfold decodeAddressed at h
  split at h
  · exact ⟨_, _, h⟩
  · cases h

theorem decodeErase_ok {mk : BitVec 24 → Instr} {op : Byte} {rest : List Byte} {i : Instr}
    (h : decodeErase mk op rest = .ok i) : ∃ a, i = mk a := by
  obtain ⟨a, data, h⟩ := decodeAddressed_ok h
  rcases ite_eq_cases h with h | h <;> cases h
  exact ⟨a, rfl⟩

/-- A captured frame decodes to a wire frame, never to a request. -/
theorem decodeFrame_isRequest {bytes : List Byte} {i : Instr} (h : decodeFrame bytes = .ok i) :
    isRequest i = false := by
  have whole : ∀ {j : Instr} {c : Prop} [Decidable c] {e : Reject}, isRequest j = false →
      (if c then Except.ok j else .error e) = .ok i → isRequest i = false := by
    intro j c _ e hj h
    rcases ite_eq_cases h with h | h <;> cases h
    exact hj
  rcases bytes with _ | ⟨op, rest⟩
  · cases h
  unfold decodeFrame at h
  rcases ite_eq_cases h with h | h
  · exact whole rfl h
  rcases ite_eq_cases h with h | h
  · exact whole rfl h
  rcases ite_eq_cases h with h | h
  · obtain ⟨a, data, h⟩ := decodeAddressed_ok h; cases h; rfl
  rcases ite_eq_cases h with h | h
  · obtain ⟨a, _ | ⟨d, data⟩, h⟩ := decodeAddressed_ok h <;> cases h; rfl
  rcases ite_eq_cases h with h | h
  · obtain ⟨a, data, h⟩ := decodeAddressed_ok h; cases h; rfl
  rcases ite_eq_cases h with h | h
  · obtain ⟨a, rfl⟩ := decodeErase_ok h; rfl
  rcases ite_eq_cases h with h | h
  · obtain ⟨a, rfl⟩ := decodeErase_ok h; rfl
  rcases ite_eq_cases h with h | h
  · obtain ⟨a, rfl⟩ := decodeErase_ok h; rfl
  rcases ite_eq_cases h with h | h
  · exact whole rfl h
  rcases ite_eq_cases h with h | h
  · exact whole rfl h
  rcases ite_eq_cases h with h | h
  · obtain ⟨a, data, h⟩ := decodeAddressed_ok h
    rcases ite_eq_cases h with h | h
    · exact whole rfl h
    · cases h
  rcases ite_eq_cases h with h | h
  · exact whole rfl h
  · cases h

/-- The acceptance of an offer is that of the instruction it decodes to. -/
theorem acceptOffer_decoded {o : Offer} {i : Instr} {s : State} (h : decode o = .ok i) :
    acceptOffer o i s = match requestOf s.cfg i with
      | some r => accept r s
      | none => acceptFrame i s := by
  cases o with
  | request r => cases h; simp [requestOf, encode_decodeRequest, acceptOffer]
  | frame bytes =>
    have := decodeFrame_isRequest h
    cases i <;> first | rfl | cases this
end Sys2Proof.Machine
end

