-- ==== Sys2Proof/Laws/Script.lean ====
section
/-! SUPPORT. The phases of a command along a good script of host answers: the waits, the program phases, the erase
phases; and the shapes of a few frames and codes. -/

namespace Sys2Proof.Machine

/-! ## Shapes -/

/-- The unique-id frame: opcode, then dummies and id phase in one run of fillers. -/
theorem frameRDUID_eq (cfg : Config) : frameRDUID cfg = 0x4B :: List.replicate 12 cfg.filler := by
  simp only [frameRDUID, fill, List.replicate_append_replicate]

theorem opOfCode_reservedAB (b : BitVec 1) : opOfCode (0b101#3 ++ b) = .reserved := by revert b; decide

theorem opOfCode_reservedCF (c : BitVec 2) : opOfCode (0b11#2 ++ c) = .reserved := by revert c; decide

/-- The zero test of a length, by its value. -/
theorem eq_zero_iff_toNat (x : U32) : x = 0#32 ↔ x.toNat = 0 := by
  constructor
  · rintro rfl; rfl
  · intro h; exact BitVec.eq_of_toNat_eq (by simpa using h)

/-- A chunk has a byte, is no longer than what remains, and ends within its page. -/
theorem chunkLen_bounds (cfg : Config) (a rem : Nat) (h : 1 ≤ cfg.pageSize) (hr : 1 ≤ rem) :
    1 ≤ chunkLen cfg a rem ∧ chunkLen cfg a rem ≤ rem ∧
      a % cfg.pageSize + chunkLen cfg a rem ≤ cfg.pageSize := by
  have := Nat.mod_lt a h
  unfold chunkLen; omega

/-! ## Waits -/

theorem waitReady_script {w : WaitScript} {s : State} {xs : List XferAnswer} {ms : List U32}
    (hg : w.Good s.cfg.tReadyMs) (hx : s.xfers = w.answers ++ xs) (hm : s.millis = w.readings ++ ms) :
    waitReady s = .ok () { s with
        tbudget := s.cfg.tReadyMs, phase := .waitReady, pos := .start
        cs := false, xfers := xs, millis := ms, t0 := w.t0, sr := rxAt w.last 1
        trace := s.trace ++ w.events s.cfg } := by
  unfold waitReady
  rw [waitLoop_script (s := enterReady s) rfl hg (by simpa using hx) (by simpa using hm)]
  rfl

theorem waitComplete_script {b : U32} {w : WaitScript} {s : State} {xs : List XferAnswer} {ms : List U32}
    (hb : completeBudget s.cfg (opOfCode s.req.op) = some b) (hg : w.Good b) (hx : s.xfers = w.answers ++ xs)
    (hm : s.millis = w.readings ++ ms) :
    waitComplete s = .ok () { s with
        tbudget := b, phase := .waitComplete, pos := .start
        cs := false, xfers := xs, millis := ms, t0 := w.t0, sr := rxAt w.last 1
        trace := s.trace ++ w.events s.cfg } := by
  unfold waitComplete
  rw [waitLoop_script (budget := b) (s := enterComplete s) (by simp [enterComplete, hb]) hg (by simpa using hx)
    (by simpa using hm)]
  simp [enterComplete, hb, State.enter]

/-! ## Programs and erases -/

/-- The registers a command's frame is built from are the same. -/
def SameCommand (s s' : State) : Prop :=
  s'.req = s.req ∧ s'.cfg = s.cfg ∧ s'.addr = s.addr ∧ s'.len = s.len ∧ s'.off = s.off

/-- The four phases of a program or an erase along a good script, for any command window that sends `parts`. -/
theorem command_script (run : State → Run (List Byte)) {b : U32} {parts : List (List Byte)} {c : CommandScript}
    {s : State} {xs : List XferAnswer} {ms : List U32}
    (hb : completeBudget s.cfg (opOfCode s.req.op) = some b) (hg : c.Good s.cfg b parts)
    (hrun : ∀ s' xs, SameCommand s s' → s'.xfers = c.command.map .ok ++ xs →
      ∃ rx, run s' = .ok rx { s' with
        phase := .commandIssue, pos := .start, cs := false, xfers := xs
        trace := s'.trace ++ windowEvents parts c.command })
    (hx : s.xfers = c.answers ++ xs) (hm : s.millis = c.readings ++ ms) :
    ((waitReady s).andThen fun _ s1 => (writeEnable s1).andThen fun _ s2 =>
      (run s2).andThen fun _ s3 => waitComplete s3) = .ok () { s with
        tbudget := b, phase := .waitComplete, pos := .start
        cs := false, xfers := xs, millis := ms, t0 := c.complete.t0, sr := rxAt c.complete.last 1
        trace := s.trace ++ c.events s.cfg parts } := by
  obtain ⟨h1, h2, h3, h4⟩ := hg
  rw [waitReady_script h1 (by rw [hx, CommandScript.answers, List.append_assoc])
    (by rw [hm, CommandScript.readings, List.append_assoc])]
  simp only [andThen_ok, writeEnable]
  rw [frame_ok (rx := c.wren) (xs := c.command.map .ok ++ (c.complete.answers ++ xs)) (by simp)
    (by simpa [frameWREN] using h2)]
  simp only [andThen_ok, State.enter]
  obtain ⟨rx, hr⟩ := hrun { s with
      tbudget := s.cfg.tReadyMs, phase := .writeEnable, pos := .start, cs := false
      xfers := c.command.map .ok ++ (c.complete.answers ++ xs), millis := c.complete.readings ++ ms
      t0 := c.ready.t0, sr := rxAt c.ready.last 1
      trace := s.trace ++ c.ready.events s.cfg ++ windowEvents [frameWREN] [c.wren] }
    (c.complete.answers ++ xs) (by exact ⟨rfl, rfl, rfl, rfl, rfl⟩) (by exact rfl)
  rw [hr]
  simp only [andThen_ok]
  rw [waitComplete_script (b := b) (w := c.complete) (xs := xs) (ms := ms) (by exact hb) h4 (by exact rfl)
    (by exact rfl)]
  simp [CommandScript.events]

/-- The program phases along a good script. -/
theorem programPhases_script {payload : State → List Byte} {b : U32} {hdr p : List Byte} {c : CommandScript}
    {s : State} {xs : List XferAnswer} {ms : List U32}
    (hb : completeBudget s.cfg (opOfCode s.req.op) = some b) (hg : c.Good s.cfg b [hdr, p])
    (hh : framePPhdr s.cfg s.addr.toNat = hdr) (hp : ∀ s', SameCommand s s' → payload s' = p)
    (hx : s.xfers = c.answers ++ xs) (hm : s.millis = c.readings ++ ms) :
    programPhases payload s = .ok () { s with
        tbudget := b, phase := .waitComplete, pos := .start
        cs := false, xfers := xs, millis := ms, t0 := c.complete.t0, sr := rxAt c.complete.last 1
        trace := s.trace ++ c.events s.cfg [hdr, p] } := by
  refine command_script (parts := [hdr, p])
    (fun s => frame2 (framePPhdr s.cfg s.addr.toNat) (payload s) (s.enter .commandIssue)) hb hg ?_ hx hm
  intro s' xs hs hx'
  have hf := hg.2.2.1
  rcases hc : c.command with _ | ⟨r1, _ | ⟨r2, _ | _⟩⟩ <;> rw [hc] at hf <;> simp [answersFit] at hf
  rw [hc] at hx'
  refine ⟨r2, ?_⟩
  rw [frame2_ok (r1 := r1) (r2 := r2) (xs := xs) (by simpa using hx')
    (by rw [hs.2.1, hs.2.2.1, hh]; exact hf.1.symm) (by rw [hp _ hs]; exact hf.2.symm)]
  rw [hs.2.1, hs.2.2.1, hh, hp _ hs]
  simp [State.enter]
  exact ⟨hs.2.2.1, hs.2.1⟩

/-- The erase phases along a good script. -/
theorem erasePhases_script {tx : State → List Byte} {b : U32} {p : List Byte} {c : CommandScript} {s : State}
    {xs : List XferAnswer} {ms : List U32}
    (hb : completeBudget s.cfg (opOfCode s.req.op) = some b) (hg : c.Good s.cfg b [p])
    (hp : ∀ s', SameCommand s s' → tx s' = p)
    (hx : s.xfers = c.answers ++ xs) (hm : s.millis = c.readings ++ ms) :
    erasePhases tx s = .ok () { s with
        tbudget := b, phase := .waitComplete, pos := .start
        cs := false, xfers := xs, millis := ms, t0 := c.complete.t0, sr := rxAt c.complete.last 1
        trace := s.trace ++ c.events s.cfg [p] } := by
  refine command_script (parts := [p]) (fun s => frame (tx s) (s.enter .commandIssue)) hb hg ?_ hx hm
  intro s' xs hs hx'
  have hf := hg.2.2.1
  rcases hc : c.command with _ | ⟨r1, _ | _⟩ <;> rw [hc] at hf <;> simp [answersFit] at hf
  rw [hc] at hx'
  refine ⟨r1, ?_⟩
  rw [frame_ok (rx := r1) (xs := xs) (by simpa using hx') (by rw [hp _ hs]; exact hf.symm)]
  rw [hp _ hs]
  simp [State.enter]

end Sys2Proof.Machine
end

