-- ==== Sys2Proof/Laws/Failure.lean ====
section
/-! SUPPORT. The phases of a read, a program or an erase along a script of host answers that ends in an error. -/

namespace Sys2Proof.Machine

/-! ## Windows -/

/-- A one-Transfer window whose Transfer faults, by its events. -/
theorem frame_failed {tx : List Byte} {s : State} {xs : List XferAnswer} (h : s.xfers = .fault :: xs) :
    frame tx s = .err .transportFault { s with
        cs := false, xfers := xs
        trace := s.trace ++ faultEvents [tx] [] } := by
  rw [frame_fault h (view_fault _)]; rfl

/-- A two-Transfer window of which the first or the second Transfer faults, by its events. -/
theorem frame2_failed {hdr body : List Byte} {s : State} {rxs : List (List Byte)} {xs : List XferAnswer}
    (hb : answersBegin [hdr, body] rxs) (h : s.xfers = rxs.map .ok ++ .fault :: xs) :
    frame2 hdr body s = .err .transportFault { s with
        cs := false, xfers := xs
        trace := s.trace ++ faultEvents [hdr, body] rxs } := by
  obtain ⟨hl, hf⟩ := hb
  rcases rxs with _ | ⟨r1, _ | ⟨r2, rest⟩⟩
  · rw [frame2_fault_hdr h (view_fault _)]; rfl
  · rw [frame2_fault_body (r1 := r1) (x := .fault) (by simpa using h)
      (by simpa [answersFit, eq_comm] using hf) (view_fault _)]
    rfl
  · simp at hl

/-! ## Waits -/

/-- The loop along busy polls within the budget and a failing last poll. -/
theorem pollLoop_failed {budget : U32} (busy : List BusyPoll) {last : WaitEnd} {s : State} {xs : List XferAnswer}
    {ms : List U32} (hb : s.tbudget = budget) (hg : FailedWait.Fails budget ⟨s.t0, busy, last⟩)
    (hx : s.xfers = FailedWait.answers ⟨s.t0, busy, last⟩ ++ xs)
    (hm : s.t0 :: s.millis = FailedWait.readings ⟨s.t0, busy, last⟩ ++ ms) :
    ∃ sr, pollLoop s.millis s = .err (FailedWait.cause ⟨s.t0, busy, last⟩) { s with
        cs := false, xfers := xs, millis := ms, sr := sr
        trace := s.trace ++ (FailedWait.events s.cfg ⟨s.t0, busy, last⟩).tail } := by
  induction busy generalizing s with
  | nil =>
    cases last with
    | fault =>
      simp only [FailedWait.answers, FailedWait.readings, List.map_nil, List.nil_append, List.cons_append,
        List.cons.injEq, true_and] at hx hm
      refine ⟨s.sr, ?_⟩
      rw [pollLoop_fault hx (view_fault _)]
      simp [FailedWait.cause, FailedWait.events, faultEvents, hm]
    | late p =>
      simp only [FailedWait.answers, FailedWait.readings, List.map_nil, List.nil_append, List.cons_append,
        List.cons.injEq, true_and] at hx hm
      obtain ⟨-, hl, hbp, htp⟩ := hg
      refine ⟨rxAt p.rx 1, ?_⟩
      rw [hm, pollLoop_timeout hx hl hbp (hb ▸ htp)]
      simp [FailedWait.cause, FailedWait.events]
  | cons p ps ih =>
    obtain ⟨hl, hbp, htp⟩ := hg.1 p (by simp)
    have hx' : s.xfers = .ok p.rx :: (FailedWait.answers ⟨s.t0, ps, last⟩ ++ xs) := by
      rw [hx]; simp [FailedWait.answers]
    have hm' : ∃ rest, s.millis = p.now :: rest ∧ s.t0 :: rest = FailedWait.readings ⟨s.t0, ps, last⟩ ++ ms := by
      simp only [FailedWait.readings, List.map_cons, List.cons_append, List.cons.injEq, true_and] at hm
      exact ⟨_, hm, by simp [FailedWait.readings]⟩
    obtain ⟨rest, hm1, hm2⟩ := hm'
    rw [hm1, pollLoop_again hx' hl hbp (hb ▸ htp)]
    obtain ⟨sr, h⟩ := ih (s := { s with
        cs := false
        xfers := FailedWait.answers ⟨s.t0, ps, last⟩ ++ xs
        sr := rxAt p.rx 1
        millis := rest
        trace := s.trace ++ (windowEvents [frameRDSR s.cfg] [p.rx] ++ [.millis p.now, .sleep s.cfg.pollMs]) })
      hb ⟨fun q hq => hg.1 q (by simp [hq]), hg.2⟩ rfl hm2
    exact ⟨sr, by rw [h]; simp [FailedWait.events, FailedWait.cause]⟩

/-- A whole wait along a failing script. -/
theorem waitLoop_failed {budget : U32} {w : FailedWait} {s : State} {xs : List XferAnswer} {ms : List U32}
    (hb : s.tbudget = budget) (hg : w.Fails budget) (hx : s.xfers = w.answers ++ xs)
    (hm : s.millis = w.readings ++ ms) :
    ∃ sr, waitLoop s = .err w.cause { s with
        cs := false, xfers := xs, millis := ms, t0 := w.t0, sr := sr
        trace := s.trace ++ w.events s.cfg } := by
  rcases w with ⟨t0, busy, last⟩
  have hm' : ∃ rest, s.millis = t0 :: rest ∧ t0 :: rest = FailedWait.readings ⟨t0, busy, last⟩ ++ ms :=
    ⟨_, hm, rfl⟩
  obtain ⟨rest, hm1, hm2⟩ := hm'
  rw [waitLoop, readMillis_cons hm1]
  obtain ⟨sr, h⟩ := pollLoop_failed (budget := budget) busy (last := last) (xs := xs) (ms := ms)
    (s := { s with millis := rest, t0 := t0, trace := s.trace ++ [.millis t0] }) hb hg hx hm2
  refine ⟨sr, ?_⟩
  simp only [andThen_ok, State.emit] at h ⊢
  rw [h]
  simp [FailedWait.events]

theorem waitReady_failed {w : FailedWait} {s : State} {xs : List XferAnswer} {ms : List U32}
    (hg : w.Fails s.cfg.tReadyMs) (hx : s.xfers = w.answers ++ xs) (hm : s.millis = w.readings ++ ms) :
    ∃ sr, waitReady s = .err w.cause { s with
        tbudget := s.cfg.tReadyMs, phase := .waitReady, pos := .start
        cs := false, xfers := xs, millis := ms, t0 := w.t0, sr := sr
        trace := s.trace ++ w.events s.cfg } := by
  obtain ⟨sr, h⟩ := waitLoop_failed (s := enterReady s) rfl hg (by simpa using hx) (by simpa using hm)
  exact ⟨sr, by rw [waitReady, h]; rfl⟩

theorem waitComplete_failed {b : U32} {w : FailedWait} {s : State} {xs : List XferAnswer} {ms : List U32}
    (hb : completeBudget s.cfg (opOfCode s.req.op) = some b) (hg : w.Fails b) (hx : s.xfers = w.answers ++ xs)
    (hm : s.millis = w.readings ++ ms) :
    ∃ sr, waitComplete s = .err w.cause { s with
        tbudget := b, phase := .waitComplete, pos := .start
        cs := false, xfers := xs, millis := ms, t0 := w.t0, sr := sr
        trace := s.trace ++ w.events s.cfg } := by
  obtain ⟨sr, h⟩ := waitLoop_failed (budget := b) (s := enterComplete s) (by simp [enterComplete, hb]) hg
    (by simpa using hx) (by simpa using hm)
  exact ⟨sr, by rw [waitComplete, h]; simp [enterComplete, hb, State.enter]⟩

/-! ## Programs and erases -/

/-- The phase in which the command fails. -/
def FailedCommand.phase : FailedCommand → Phase
  | .ready _ => .waitReady
  | .writeEnable _ => .writeEnable
  | .command _ _ _ => .commandIssue
  | .complete _ _ _ _ => .waitComplete

/-- The four phases of a program or an erase along a failing script, for any command window that sends `parts`. -/
theorem command_failed (run : State → Run (List Byte)) {b : U32} {parts : List (List Byte)} {f : FailedCommand}
    {s : State} {xs : List XferAnswer} {ms : List U32}
    (hb : completeBudget s.cfg (opOfCode s.req.op) = some b) (hg : f.Fails s.cfg b parts)
    (hok : ∀ s' rxs xs, SameCommand s s' → answersFit parts rxs → s'.xfers = rxs.map .ok ++ xs →
      ∃ rx, run s' = .ok rx { s' with
        phase := .commandIssue, pos := .start, cs := false, xfers := xs
        trace := s'.trace ++ windowEvents parts rxs })
    (hfault : ∀ s' rxs xs, SameCommand s s' → answersBegin parts rxs → s'.xfers = rxs.map .ok ++ .fault :: xs →
      run s' = .err .transportFault { s' with
        phase := .commandIssue, pos := .start, cs := false, xfers := xs
        trace := s'.trace ++ faultEvents parts rxs })
    (hx : s.xfers = f.answers ++ xs) (hm : s.millis = f.readings ++ ms) :
    ∃ tb t0 sr, ((waitReady s).andThen fun _ s1 => (writeEnable s1).andThen fun _ s2 =>
      (run s2).andThen fun _ s3 => waitComplete s3) = .err f.cause { s with
        tbudget := tb, phase := f.phase, pos := .start
        cs := false, xfers := xs, millis := ms, t0 := t0, sr := sr
        trace := s.trace ++ f.events s.cfg parts } := by
  cases f with
  | ready w =>
    obtain ⟨sr, h⟩ := waitReady_failed hg hx hm
    exact ⟨_, _, sr, by rw [h]; rfl⟩
  | writeEnable r =>
    refine ⟨s.cfg.tReadyMs, r.t0, rxAt r.last 1, ?_⟩
    rw [waitReady_script (w := r) hg (by simpa [FailedCommand.answers] using hx) hm]
    simp only [andThen_ok, writeEnable]
    rw [frame_failed (xs := xs) (by simp)]
    simp [State.enter, FailedCommand.cause, FailedCommand.phase, FailedCommand.events]
  | command r wren rxs =>
    obtain ⟨hr, hw, hp⟩ := hg
    refine ⟨s.cfg.tReadyMs, r.t0, rxAt r.last 1, ?_⟩
    rw [waitReady_script (w := r) hr (by simpa [FailedCommand.answers] using hx) hm]
    simp only [andThen_ok, writeEnable]
    rw [frame_ok (rx := wren) (xs := rxs.map .ok ++ .fault :: xs) (by simp) (by simpa [frameWREN] using hw)]
    simp only [andThen_ok]
    rw [hfault _ rxs xs (by exact ⟨rfl, rfl, rfl, rfl, rfl⟩) hp rfl]
    simp [State.enter, FailedCommand.cause, FailedCommand.phase, FailedCommand.events]
  | complete r wren rxs w =>
    obtain ⟨hr, hw, hp, hf⟩ := hg
    rw [waitReady_script (w := r) hr (by simpa [FailedCommand.answers] using hx)
      (by simpa [FailedCommand.readings] using hm)]
    simp only [andThen_ok, writeEnable]
    rw [frame_ok (rx := wren) (xs := rxs.map .ok ++ (w.answers ++ xs)) (by simp) (by simpa [frameWREN] using hw)]
    simp only [andThen_ok]
    obtain ⟨rx, h⟩ := hok { s with
        tbudget := s.cfg.tReadyMs, phase := .writeEnable, pos := .start, cs := false
        xfers := rxs.map .ok ++ (w.answers ++ xs), millis := w.readings ++ ms
        t0 := r.t0, sr := rxAt r.last 1
        trace := s.trace ++ r.events s.cfg ++ windowEvents [frameWREN] [wren] }
      rxs (w.answers ++ xs) (by exact ⟨rfl, rfl, rfl, rfl, rfl⟩) hp rfl
    simp only [State.enter]
    rw [h]
    simp only [andThen_ok]
    obtain ⟨sr, h2⟩ := waitComplete_failed (b := b) (w := w) (xs := xs) (ms := ms)
      (s := { s with
        tbudget := s.cfg.tReadyMs, phase := .commandIssue, pos := .start, cs := false
        xfers := w.answers ++ xs, millis := w.readings ++ ms
        t0 := r.t0, sr := rxAt r.last 1
        trace := s.trace ++ r.events s.cfg ++ windowEvents [frameWREN] [wren] ++ windowEvents parts rxs })
      (by exact hb) hf rfl rfl
    refine ⟨b, w.t0, sr, ?_⟩
    rw [h2]
    simp [FailedCommand.cause, FailedCommand.phase, FailedCommand.events]

/-- The program phases along a failing script. -/
theorem programPhases_failed {payload : State → List Byte} {b : U32} {hdr p : List Byte} {f : FailedCommand}
    {s : State} {xs : List XferAnswer} {ms : List U32}
    (hb : completeBudget s.cfg (opOfCode s.req.op) = some b) (hg : f.Fails s.cfg b [hdr, p])
    (hh : framePPhdr s.cfg s.addr.toNat = hdr) (hp : ∀ s', SameCommand s s' → payload s' = p)
    (hx : s.xfers = f.answers ++ xs) (hm : s.millis = f.readings ++ ms) :
    ∃ tb t0 sr, programPhases payload s = .err f.cause { s with
        tbudget := tb, phase := f.phase, pos := .start
        cs := false, xfers := xs, millis := ms, t0 := t0, sr := sr
        trace := s.trace ++ f.events s.cfg [hdr, p] } := by
  refine command_failed (parts := [hdr, p])
    (fun s => frame2 (framePPhdr s.cfg s.addr.toNat) (payload s) (s.enter .commandIssue)) hb hg ?_ ?_ hx hm
  · intro s' rxs xs hs hf hx'
    rcases rxs with _ | ⟨r1, _ | ⟨r2, _ | _⟩⟩ <;> simp [answersFit] at hf
    refine ⟨r2, ?_⟩
    simp only [hp _ hs, hs.2.1, hs.2.2.1, hh]
    rw [frame2_ok (r1 := r1) (r2 := r2) (xs := xs) (by simpa using hx') hf.1.symm hf.2.symm]
    simp [State.enter, hs.2.1, hs.2.2.1]
  · intro s' rxs xs hs hf hx'
    simp only [hp _ hs, hs.2.1, hs.2.2.1, hh]
    rw [frame2_failed hf (by simpa using hx')]
    simp [State.enter, hs.2.1, hs.2.2.1]

/-- The erase phases along a failing script. -/
theorem erasePhases_failed {tx : State → List Byte} {b : U32} {p : List Byte} {f : FailedCommand} {s : State}
    {xs : List XferAnswer} {ms : List U32}
    (hb : completeBudget s.cfg (opOfCode s.req.op) = some b) (hg : f.Fails s.cfg b [p])
    (hp : ∀ s', SameCommand s s' → tx s' = p)
    (hx : s.xfers = f.answers ++ xs) (hm : s.millis = f.readings ++ ms) :
    ∃ tb t0 sr, erasePhases tx s = .err f.cause { s with
        tbudget := tb, phase := f.phase, pos := .start
        cs := false, xfers := xs, millis := ms, t0 := t0, sr := sr
        trace := s.trace ++ f.events s.cfg [p] } := by
  refine command_failed (parts := [p]) (fun s => frame (tx s) (s.enter .commandIssue)) hb hg ?_ ?_ hx hm
  · intro s' rxs xs hs hf hx'
    rcases rxs with _ | ⟨r1, _ | _⟩ <;> simp [answersFit] at hf
    refine ⟨r1, ?_⟩
    rw [hp _ hs, frame_ok (rx := r1) (xs := xs) (by simpa using hx') hf.symm]
    simp [State.enter]
  · intro s' rxs xs hs hf hx'
    obtain ⟨hl, -⟩ := hf
    rcases rxs with _ | ⟨r1, rest⟩
    · rw [hp _ hs, frame_failed (by simpa using hx')]
      simp [State.enter]
    · simp at hl

/-! ## Reads -/

/-- The read phases along a failing script: nothing is received. -/
theorem readBody_failed {hdr : State → List Byte} {h : List Byte} {f : FailedRead} {s : State}
    {xs : List XferAnswer} {ms : List U32}
    (hg : f.Fails s.cfg [h, frameRx s.cfg s.req.len.toNat])
    (hh : ∀ s', s'.addr = s.req.addr → s'.cfg = s.cfg → hdr s' = h)
    (hx : s.xfers = f.answers ++ xs) (hm : s.millis = f.readings ++ ms) :
    ∃ ph t0 sr, (ph = .waitReady ∨ ph = .commandIssue) ∧ readBody hdr s = .err f.cause { s with
        addr := s.req.addr, len := s.req.len, tbudget := s.cfg.tReadyMs, phase := ph, pos := .start
        cs := false, xfers := xs, millis := ms, t0 := t0, sr := sr
        trace := s.trace ++ f.events s.cfg [h, frameRx s.cfg s.req.len.toNat] } := by
  cases f with
  | ready w =>
    obtain ⟨sr, e⟩ := waitReady_failed (s := loadAddrLen s) hg hx hm
    exact ⟨.waitReady, w.t0, sr, .inl rfl, by rw [readBody, e]; rfl⟩
  | command r rxs =>
    obtain ⟨hr, hp⟩ := hg
    refine ⟨.commandIssue, r.t0, rxAt r.last 1, .inr rfl, ?_⟩
    rw [readBody, waitReady_script (s := loadAddrLen s) (w := r) hr (by simpa [FailedRead.answers] using hx) hm]
    simp only [andThen_ok]
    rw [hh _ (by exact rfl) (by exact rfl)]
    simp only [loadAddrLen_cfg, loadAddrLen_len]
    rw [frame2_failed hp (by exact rfl)]
    simp [State.enter, FailedRead.cause, FailedRead.events, loadAddrLen]

end Sys2Proof.Machine
end

