-- ==== Sys2Proof/Laws/PerInstr.lean ====
section
/-! SUPPORT. Families of lemmas, one lemma per constructor of Instr. FrameLength: how many bytes an instruction puts
on the wire as a frame (30_encoding.md R98); a request is no frame and puts none. -/

namespace Sys2Proof.Laws.FrameLength

open Sys2Proof

/-- The length R98 gives the frame of an instruction. -/
def expected : Instr → Nat
  | .wren => 1
  | .rdsr => 2
  | .read _ n => 4 + n
  | .fastRead _ n => 5 + n
  | .pp _ p => 4 + p.length
  | .se _ => 4
  | .be32 _ => 4
  | .be64 _ => 4
  | .ce => 1
  | .rdjdid => 4
  | .rdid => 6
  | .rduid => 13
  | .reqInit _ => 0
  | .reqRead _ => 0
  | .reqFread _ => 0
  | .reqWpage _ => 0
  | .reqWrite _ => 0
  | .reqEsect _ => 0
  | .reqEb32 _ => 0
  | .reqEb64 _ => 0
  | .reqEchip _ => 0
  | .reqInfo _ => 0
  | .reservedAB _ _ => 0
  | .reservedCF _ _ => 0

/-- The frame the encoder builds has the length of R98. -/
def Statement (i : Instr) : Prop := ∀ cfg : Config, (encodeFrame cfg i).length = expected i

theorem addrFrame_length (cfg : Config) (op : Byte) (a k : Nat) :
    (Machine.addrFrame cfg op a k).length = 4 + k := by
  simp [Machine.addrFrame, Machine.addrBytesOf, Machine.fill]; omega

theorem wren : Statement .wren := fun _ => rfl
theorem rdsr : Statement .rdsr := fun _ => rfl
theorem read (a : BitVec 24) (n : Nat) : Statement (.read a n) := fun cfg => by
  simp [encodeFrame, Machine.wireParts, Machine.frameREADhdr, Machine.frameRx, Machine.fill, expected, addrFrame_length]
theorem fastRead (a : BitVec 24) (n : Nat) : Statement (.fastRead a n) := fun cfg => by
  simp [encodeFrame, Machine.wireParts, Machine.frameFREADhdr, Machine.frameRx, Machine.fill, expected, addrFrame_length]
theorem pp (a : BitVec 24) (p : List Byte) : Statement (.pp a p) := fun cfg => by
  simp [encodeFrame, Machine.wireParts, Machine.framePPhdr, expected, addrFrame_length]
theorem se (a : BitVec 24) : Statement (.se a) := fun cfg => by
  simp [encodeFrame, Machine.wireParts, Machine.frameSE, expected, addrFrame_length]
theorem be32 (a : BitVec 24) : Statement (.be32 a) := fun cfg => by
  simp [encodeFrame, Machine.wireParts, Machine.frameBE32, expected, addrFrame_length]
theorem be64 (a : BitVec 24) : Statement (.be64 a) := fun cfg => by
  simp [encodeFrame, Machine.wireParts, Machine.frameBE64, expected, addrFrame_length]
theorem ce : Statement .ce := fun _ => rfl
theorem rdjdid : Statement .rdjdid := fun _ => rfl
theorem rdid : Statement .rdid := fun _ => rfl
theorem rduid : Statement .rduid := fun cfg => by
  simp [encodeFrame, Machine.wireParts, Machine.frameRDUID, Machine.fill, expected]
theorem reqInit (q : Args) : Statement (.reqInit q) := fun _ => rfl
theorem reqRead (q : Args) : Statement (.reqRead q) := fun _ => rfl
theorem reqFread (q : Args) : Statement (.reqFread q) := fun _ => rfl
theorem reqWpage (q : Args) : Statement (.reqWpage q) := fun _ => rfl
theorem reqWrite (q : Args) : Statement (.reqWrite q) := fun _ => rfl
theorem reqEsect (q : Args) : Statement (.reqEsect q) := fun _ => rfl
theorem reqEb32 (q : Args) : Statement (.reqEb32 q) := fun _ => rfl
theorem reqEb64 (q : Args) : Statement (.reqEb64 q) := fun _ => rfl
theorem reqEchip (q : Args) : Statement (.reqEchip q) := fun _ => rfl
theorem reqInfo (q : Args) : Statement (.reqInfo q) := fun _ => rfl
theorem reservedAB (b : BitVec 1) (q : Args) : Statement (.reservedAB b q) := fun _ => rfl
theorem reservedCF (c : BitVec 2) (q : Args) : Statement (.reservedCF c q) := fun _ => rfl

end Sys2Proof.Laws.FrameLength
end

