-- ==== Sys2Proof/Laws/Tick.lean ====
section
/-! SUPPORT. What one event of the phase machine and one step can do, and how the events of a window and of a wait
follow the straight-line procedures (the simulation `Sim`). -/

namespace Sys2Proof.Machine

/-! ## Which procedure a phase runs -/

/-- The phase has bus windows. -/
def Windowed (s : State) : Prop := s.phase.isFrame = true ∨ s.phase.isWait = true

/-- The next event opens the phase's window. -/
def Opens (s : State) : Prop :=
  s.phase.isFrame = true ∧ s.pos = .start ∨ s.phase.isWait = true ∧ s.pos = .poll

theorem Opens.windowed {s : State} (h : Opens s) : Windowed s := by
  rcases h with h | h
  · exact .inl h.1
  · exact .inr h.1

/-- Inside an open window, the next event is the window's. -/
theorem tick_window {s : State} (h : Windowed s) (hp : s.pos.windowOpen = true) : tick s = tickWindow s := by
  unfold tick
  rcases hpos : s.pos with _ | _ | _ | _ | _ | _ <;> simp [hpos, Pos.windowOpen] at hp <;>
  rcases hph : s.phase <;> simp [Windowed, hph, Phase.isFrame, Phase.isWait] at h <;>
  simp [tickFrame, tickWait, hpos]

theorem tick_open {s : State} (h : Opens s) : tick s = openWindow s := by
  unfold tick
  rcases h with ⟨h, hp⟩ | ⟨h, hp⟩ <;>
  rcases hph : s.phase <;> simp [hph, Phase.isFrame, Phase.isWait] at h <;> simp [tickFrame, tickWait, hp]

theorem tick_wait {s : State} (h : s.phase.isWait = true) : tick s = tickWait s := by
  unfold tick
  rcases hph : s.phase <;> simp [hph, Phase.isWait] at h <;> simp

/-- A wait's window is the one Transfer of Read Status. -/
theorem phaseParts_wait {s : State} (h : s.phase.isWait = true) : phaseParts s = [frameRDSR s.cfg] := by
  unfold phaseParts
  rcases hph : s.phase <;> simp [hph, Phase.isWait] at h <;> simp

/-- A poll's bytes: the status byte is latched, and BUSY decides. -/
theorem absorb_wait {s : State} (rx : List Byte) (h : s.phase.isWait = true) :
    absorb rx s = if busyFlag (rxAt rx 1) then some ({ s with sr := rxAt rx 1 }.stay .busy)
      else afterWait { s with sr := rxAt rx 1 } := by
  unfold absorb
  rcases hph : s.phase <;> simp [hph, Phase.isWait] at h <;> simp

/-- What follows a wait does not depend on the place within it. -/
theorem afterWait_pos (s : State) (p : Pos) : afterWait { s with pos := p } = afterWait s := by
  unfold afterWait
  rcases h : s.phase <;> rcases h2 : opOfCode s.req.op <;> simp [State.enter, advance]

/-! ## What the moves between phases leave alone -/

/-- A move that makes no event: the trace and chip-select stay, and the new place is a phase's start, or the place
after a busy poll. -/
def Quiet (s t : State) : Prop :=
  t.trace = s.trace ∧ t.cs = s.cs ∧ t.phase ≠ .idle ∧ (t.pos = .start ∨ t.pos = .busy ∧ t.phase.isWait = true)

theorem afterWait_quiet {s t : State} (h : afterWait s = some t) : Quiet s t := by
  unfold afterWait at h
  split at h <;> cases h <;> simp [Quiet]

theorem afterCommand_quiet {rx : List Byte} {s t : State} (h : afterCommand rx s = some t) : Quiet s t := by
  unfold afterCommand at h
  split at h
  · cases h; simp [Quiet]
  · split at h <;> cases h <;> simp [Quiet]

theorem afterUid_quiet {rx : List Byte} {s t : State} (h : afterUid rx s = some t) : Quiet s t := by
  unfold afterUid at h
  split at h <;> cases h <;> simp [Quiet]

/-- Absorbing a window's bytes makes no event. -/
theorem absorb_quiet {rx : List Byte} {s t : State} (h : absorb rx s = some t) : Quiet s t := by
  unfold absorb at h
  cases hph : s.phase <;> simp only [hph] at h
  case waitReady | waitComplete =>
    split at h
    · cases h; simp [Quiet, Phase.isWait]
    · simpa [Quiet] using afterWait_quiet h
  case writeEnable => cases h; simp [Quiet]
  case commandIssue => exact afterCommand_quiet h
  case idRead => split at h <;> cases h <;> simp [Quiet]
  case uidRead => exact afterUid_quiet h
  all_goals cases h

/-! ## What a step can do -/

/-- Everything a step that answers a next state can do: reset; in IDLE nothing, or the acceptance or the whole meaning
of the offer at hand; with an operation in progress nothing, or one event. -/
theorem step_cases {s t : State} (h : step s = .next t) :
    (s.resetLine = true ∧ t = hardReset s) ∨
    (s.phase = .idle ∧ (t = s ∨ ∃ o rest i, s.inbox = o :: rest ∧ decode o = .ok i ∧ i.wf s.cfg = true ∧
      (s.byEvents = true ∧ t = acceptOffer o i { s with inbox := rest } ∨
        s.byEvents = false ∧ exec i { s with inbox := rest } = .next t))) ∨
    (s.phase ≠ .idle ∧ (t = s ∨ tick s = some t)) := by
  unfold step at h
  split at h
  · cases h; exact .inl ⟨‹_›, rfl⟩
  split at h
  · refine .inr (.inl ⟨‹_›, ?_⟩)
    unfold stepIdle at h
    split at h
    · cases h; exact .inl rfl
    split at h
    · cases h
    split at h
    · split at h
      · cases h
      · split at h
        · cases h; exact .inr ⟨_, _, _, ‹_›, ‹_›, ‹_›, .inl ⟨‹_›, rfl⟩⟩
        · exact .inr ⟨_, _, _, ‹_›, ‹_›, ‹_›, .inr ⟨by simpa using ‹¬s.byEvents = true›, h⟩⟩
    · cases h
  · refine .inr (.inr ⟨‹_›, ?_⟩)
    unfold stepBusy at h
    split at h
    · cases h
    · cases hh : tick s <;> simp [hh] at h <;> subst h
      · exact .inl rfl
      · exact .inr rfl

/-- What every event keeps, any number of events keep. -/
theorem ticks_induct {P : State → Prop} (h : ∀ s t, P s → tick s = some t → P t) (n : Nat) (s : State) (hs : P s) :
    P (ticks n s) := by
  induction n generalizing s with
  | zero => exact hs
  | succ n ih =>
    unfold ticks
    split
    · exact ih _ (h _ _ hs ‹_›)
    · exact hs

/-! ## The simulation -/

theorem andThen_assoc {α β γ : Type} (r : Run α) (f : α → State → Run β) (g : β → State → Run γ) :
    (r.andThen f).andThen g = r.andThen (fun a s => (f a s).andThen g) := by
  cases r <;> rfl

theorem andThen_pure (r : Run Unit) : r.andThen (fun _ s => .ok () s) = r := by cases r <;> rfl

/-- The event machine comes from `s` to `t`. -/
def Reach (s t : State) : Prop := ∃ n, ticks n s = t

theorem Reach.refl (s : State) : Reach s s := ⟨0, rfl⟩

theorem Reach.head {s u t : State} (h : tick s = some u) (h2 : Reach u t) : Reach s t := by
  obtain ⟨n, hn⟩ := h2
  exact ⟨n + 1, by simp [ticks, h, hn]⟩

/-- The state `conclude` answers. -/
def final : Run Unit → State
  | .ok _ s => respondOk (s.enter .done)
  | .err c s => respondError (raise c s)
  | .wait s => s

/-- From `m`, the event machine comes to the state in which the procedure `r` ends, and rests there. -/
def Sim (m : State) (r : Run Unit) : Prop := Reach m (final r) ∧ tick (final r) = none

theorem Sim.head {s u : State} {r : Run Unit} (h : tick s = some u) (h2 : Sim u r) : Sim s r := ⟨h2.1.head h, h2.2⟩

theorem Sim.ok_here (s : State) : Sim (s.enter .done) (.ok () s) :=
  ⟨Reach.head (u := respondOk (s.enter .done)) (by simp [tick]) (Reach.refl _), by simp [final, tick]⟩

theorem Sim.err_here (c : Cause) (s : State) : Sim (raise c s) (.err c s) :=
  ⟨Reach.head (u := respondError (raise c s)) (by simp [tick]) (Reach.refl _), by simp [final, tick]⟩

theorem Sim.err {s s' : State} {c : Cause} (h : tick s = some (raise c s')) : Sim s (.err c s') :=
  Sim.head h (Sim.err_here c s')

theorem Sim.ok {s s' : State} (h : tick s = some (s'.enter .done)) : Sim s (.ok () s') :=
  Sim.head h (Sim.ok_here s')

theorem Sim.wait {s : State} (h : tick s = none) : Sim s (.wait s) := ⟨Reach.refl _, h⟩

/-- What a simulation says of the meaning that concludes the procedure. -/
theorem Sim.concl {m : State} {r : Run Unit} (h : Sim m r) :
    ∃ n t, conclude r = .next t ∧ ticks n m = t ∧ tick t = none := by
  obtain ⟨⟨n, hn⟩, h2⟩ := h
  refine ⟨n, final r, ?_, hn, h2⟩
  cases r <;> rfl

/-- The events of a one-transfer window follow `frame`. -/
theorem frame_sim {tx : List Byte} {s m : State} (p : Pos) (hm : m = s.stay p) (ho : Opens m)
    (hpp : phaseParts m = [tx]) (f : List Byte → State → Run Unit)
    (hf : ∀ rx xs, s.xfers = .ok rx :: xs → rx.length = tx.length →
      ∃ v, absorb rx { s with
            cs := false, xfers := xs, pos := .closing (some rx)
            trace := s.trace ++ windowEvents [tx] [rx] } = some v ∧
        Sim v (f rx { s with cs := false, xfers := xs, trace := s.trace ++ windowEvents [tx] [rx] })) :
    Sim m ((frame tx s).andThen f) := by
  subst hm
  refine Sim.head (tick_open ho |>.trans (by unfold openWindow; rw [hpp])) ?_
  have hw := ho.windowed
  rcases frame_cases tx s with ⟨rx, xs, hx, hl, e⟩ | ⟨x, xs, hx, hv, e⟩ | ⟨hx, e⟩ <;> rw [e]
  · obtain ⟨v, hv, hs⟩ := hf rx xs hx hl
    refine Sim.head (u := { s with
      cs := true, xfers := xs, pos := .closing (some rx)
      trace := s.trace ++ [.select true, .transfer tx (some rx)] }) ?_ (Sim.head (u := v) ?_ hs)
    · rw [tick_window (by exact hw) (by rfl)]
      simp [tickWindow, hx, view_ok hl, State.stay, State.select, State.emit]
    · rw [tick_window (by exact hw) (by rfl), ← hv]
      simp [tickWindow, State.select, State.emit, windowEvents]
  · refine Sim.head (u := { s with
      cs := true, xfers := xs, pos := .closing none
      trace := s.trace ++ [.select true, .transfer tx none] }) ?_ (Sim.err ?_)
    · rw [tick_window (by exact hw) (by rfl)]
      simp [tickWindow, hx, hv, State.stay, State.select, State.emit]
    · rw [tick_window (by exact hw) (by rfl)]
      simp [tickWindow, State.select, State.emit, raise, State.enter, reachNow, commandReach]
  · have : Sim { s with cs := true, pos := .sending [tx], trace := s.trace ++ [.select true] }
        (.wait { s with cs := true, pos := .sending [tx], trace := s.trace ++ [.select true] }) := by
      apply Sim.wait
      rw [tick_window (by exact hw) (by rfl)]
      simp [tickWindow, hx]
    simpa [State.stay, State.select, State.emit] using this

/-- The events of a two-transfer window follow `frame2`. -/
theorem frame2_sim {hdr body : List Byte} {s m : State} (p : Pos) (hm : m = s.stay p) (ho : Opens m)
    (hpp : phaseParts m = [hdr, body]) (f : List Byte → State → Run Unit)
    (hf : ∀ r1 rx xs, s.xfers = .ok r1 :: .ok rx :: xs → rx.length = body.length →
      ∃ v, absorb rx { s with
            cs := false, xfers := xs, pos := .closing (some rx)
            trace := s.trace ++ windowEvents [hdr, body] [r1, rx] } = some v ∧
        Sim v (f rx { s with
          cs := false, xfers := xs
          trace := s.trace ++ windowEvents [hdr, body] [r1, rx] })) :
    Sim m ((frame2 hdr body s).andThen f) := by
  subst hm
  refine Sim.head (tick_open ho |>.trans (by unfold openWindow; rw [hpp])) ?_
  have hw := ho.windowed
  rcases frame2_cases hdr body s with ⟨r1, rx, xs, hx, h1, hl, e⟩ | ⟨x, xs, hx, hv, e⟩ |
    ⟨r1, x, xs, hx, h1, hv, e⟩ | ⟨hx, e⟩ | ⟨r1, hx, h1, e⟩ <;> rw [e]
  · obtain ⟨v, hv, hs⟩ := hf r1 rx xs hx hl
    refine Sim.head (u := { s with
        cs := true, xfers := .ok rx :: xs, pos := .sending [body]
        trace := s.trace ++ [.select true, .transfer hdr (some r1)] }) ?_ <|
      Sim.head (u := { s with
        cs := true, xfers := xs, pos := .closing (some rx)
        trace := s.trace ++ [.select true, .transfer hdr (some r1), .transfer body (some rx)] }) ?_
        (Sim.head (u := v) ?_ hs)
    · rw [tick_window (by exact hw) (by rfl)]
      simp [tickWindow, hx, view_ok h1, State.stay, State.select, State.emit]
    · rw [tick_window (by exact hw) (by rfl)]
      simp [tickWindow, view_ok hl, State.stay, State.emit]
    · rw [tick_window (by exact hw) (by rfl), ← hv]
      simp [tickWindow, State.select, State.emit, windowEvents]
  · refine Sim.head (u := { s with
      cs := true, xfers := xs, pos := .closing none
      trace := s.trace ++ [.select true, .transfer hdr none] }) ?_ (Sim.err ?_)
    · rw [tick_window (by exact hw) (by rfl)]
      simp [tickWindow, hx, hv, State.stay, State.select, State.emit]
    · rw [tick_window (by exact hw) (by rfl)]
      simp [tickWindow, State.select, State.emit, raise, State.enter, reachNow, commandReach]
  · refine Sim.head (u := { s with
        cs := true, xfers := x :: xs, pos := .sending [body]
        trace := s.trace ++ [.select true, .transfer hdr (some r1)] }) ?_ <|
      Sim.head (u := { s with
        cs := true, xfers := xs, pos := .closing none
        trace := s.trace ++ [.select true, .transfer hdr (some r1), .transfer body none] }) ?_ (Sim.err ?_)
    · rw [tick_window (by exact hw) (by rfl)]
      simp [tickWindow, hx, view_ok h1, State.stay, State.select, State.emit]
    · rw [tick_window (by exact hw) (by rfl)]
      simp [tickWindow, hv, State.stay, State.emit]
    · rw [tick_window (by exact hw) (by rfl)]
      simp [tickWindow, State.select, State.emit, raise, State.enter, reachNow, commandReach]
  · have : Sim { s with cs := true, pos := .sending [hdr, body], trace := s.trace ++ [.select true] }
        (.wait { s with cs := true, pos := .sending [hdr, body], trace := s.trace ++ [.select true] }) := by
      apply Sim.wait
      rw [tick_window (by exact hw) (by rfl)]
      simp [tickWindow, hx]
    simpa [State.stay, State.select, State.emit] using this
  · simp only [andThen_wait]
    refine Sim.head (u := { s with
      cs := true, xfers := [], pos := .sending [body]
      trace := s.trace ++ [.select true, .transfer hdr (some r1)] }) ?_ ?_
    · rw [tick_window (by exact hw) (by rfl)]
      simp [tickWindow, hx, view_ok h1, State.stay, State.select, State.emit]
    · apply Sim.wait
      rw [tick_window (by exact hw) (by rfl)]
      simp [tickWindow]

/-- What a wait can change of the state it ends in, `T0` apart. -/
def polled (s : State) (cs : Bool) (xs : List XferAnswer) (sr : Byte) (ms : List U32) (tr : List Event) : State :=
  { s with cs := cs, xfers := xs, sr := sr, millis := ms, trace := tr }

/-- The events of the polling loop follow `pollLoop`. -/
theorem pollLoop_sim (ms : List U32) (s m : State) (hms : s.millis = ms) (hm : m = s.stay .poll)
    (hw : s.phase.isWait = true) (f : Unit → State → Run Unit)
    (hf : ∀ cs xs sr ms' tr, ms'.length ≤ ms.length →
      ∃ v, afterWait (polled s cs xs sr ms' tr) = some v ∧ Sim v (f () (polled s cs xs sr ms' tr))) :
    Sim m ((pollLoop ms s).andThen f) := by
  induction ms generalizing s m with
  | nil =>
    rw [pollLoop.eq_def, andThen_assoc]
    apply frame_sim .poll hm (by subst hm; exact .inr ⟨hw, rfl⟩) (by subst hm; exact phaseParts_wait hw)
    intro rx xs hx hl
    rw [absorb_wait _ (by exact hw)]
    cases hb : busyFlag (rxAt rx 1)
    · simp only [hb, Bool.false_eq_true, if_false, andThen_ok]
      obtain ⟨v, hv, hs⟩ :=
        hf false xs (rxAt rx 1) s.millis (s.trace ++ windowEvents [frameRDSR s.cfg] [rx]) (by rw [hms])
      exact ⟨v, (afterWait_pos _ _).trans hv, hs⟩
    · simp only [hb, if_true, andThen_wait]
      refine ⟨_, rfl, ?_⟩
      apply Sim.wait
      rw [tick_wait (by exact hw)]
      simp [tickWait, State.stay, hms]
  | cons now rest ih =>
    rw [pollLoop.eq_def, andThen_assoc]
    apply frame_sim .poll hm (by subst hm; exact .inr ⟨hw, rfl⟩) (by subst hm; exact phaseParts_wait hw)
    intro rx xs hx hl
    rw [absorb_wait _ (by exact hw)]
    cases hb : busyFlag (rxAt rx 1)
    · simp only [hb, Bool.false_eq_true, if_false, andThen_ok]
      obtain ⟨v, hv, hs⟩ :=
        hf false xs (rxAt rx 1) s.millis (s.trace ++ windowEvents [frameRDSR s.cfg] [rx]) (by rw [hms])
      exact ⟨v, (afterWait_pos _ _).trans hv, hs⟩
    · simp only [hb, if_true]
      refine ⟨_, rfl, ?_⟩
      cases ht : timedOut s.t0 s.tbudget now
      · simp only [emit_t0, emit_tbudget, ht, Bool.false_eq_true, if_false]
        refine Sim.head (u := { s with
          cs := false, xfers := xs, sr := rxAt rx 1, millis := rest, pos := .nap
          trace := s.trace ++ windowEvents [frameRDSR s.cfg] [rx] ++ [.millis now] }) ?_ ?_
        · rw [tick_wait (by exact hw)]
          simp [tickWait, State.stay, hms, ht, State.emit]
        refine Sim.head ?_ (ih { s with
            cs := false, xfers := xs, sr := rxAt rx 1, millis := rest
            trace := s.trace ++ windowEvents [frameRDSR s.cfg] [rx] ++ [.millis now] ++ [.sleep s.cfg.pollMs] }
          (m := { s with
            cs := false, xfers := xs, sr := rxAt rx 1, millis := rest, pos := .poll
            trace := s.trace ++ windowEvents [frameRDSR s.cfg] [rx] ++ [.millis now] ++ [.sleep s.cfg.pollMs] })
          rfl ?_ ?_ ?_)
        · rw [tick_wait (by exact hw)]
          simp [tickWait, State.stay, State.emit, State.sleep]
        · simp [State.stay]
        · exact hw
        · intro cs xs sr ms tr hl
          exact hf cs xs sr ms tr (by simp; omega)
      · simp only [emit_t0, emit_tbudget, ht, if_true, andThen_err]
        apply Sim.err
        rw [tick_wait (by exact hw)]
        simp [tickWait, State.stay, hms, ht, State.emit, raise, State.enter, reachNow, commandReach]

/-- The events of a wait follow `waitLoop`, which takes at least one reading of the counter if it returns. -/
theorem waitLoop_sim (s : State) (hp : s.pos = .start) (hw : s.phase.isWait = true) (f : Unit → State → Run Unit)
    (hf : ∀ t0 cs xs sr ms tr, ms.length < s.millis.length →
      ∃ v, afterWait (polled { s with t0 := t0 } cs xs sr ms tr) = some v ∧
        Sim v (f () (polled { s with t0 := t0 } cs xs sr ms tr))) :
    Sim s ((waitLoop s).andThen f) := by
  unfold waitLoop
  cases h : s.millis with
  | nil =>
    rw [readMillis_nil h]
    have : s.stay .start = s := by rcases s; simp at hp; subst hp; rfl
    rw [this]
    apply Sim.wait
    rw [tick_wait hw]; simp [tickWait, hp, h]
  | cons v ms =>
    rw [readMillis_cons h]
    simp only [andThen_ok]
    refine Sim.head ?_ (pollLoop_sim ms { { s with millis := ms }.emit (.millis v) with t0 := v }
      ({ { s with millis := ms }.emit (.millis v) with t0 := v }.stay .poll) rfl rfl ?_ f ?_)
    · rw [tick_wait hw]; simp [tickWait, hp, h]; rfl
    · exact hw
    · intro cs xs sr ms' tr hl
      exact hf v cs xs sr ms' tr (by rw [h]; simp; omega)

end Sys2Proof.Machine
end

