-- ==== Sys2Proof/Tests/Slice0.lean ====
section
/-! SUPPORT. Tests: an ill-formed term for each check of WellFormed; every constructor's decoding from bytes written
out from 30_encoding.md R91, R97 and R100; one or two single steps per instruction with the results of
95_test_vectors.md or worked by hand from the rules; and, for every statement with hypotheses, a concrete state and
operands that meet them. -/

open Sys2Proof Sys2Proof.Machine

namespace Sys2Proof.Tests

-- One test at a time: a kernel evaluation waits for every earlier theorem, and a hundred waiting threads need too much
-- memory.
set_option Elab.async false

/-! ## Fixtures -/

/-- The example configuration of 95_test_vectors.md section 4, but with `FILLER = 0xA5`, so that a filler byte and a
zero address byte differ. -/
def cfg : Config :=
  { tReadyMs := 5, tPpMs := 5, tSeMs := 50, tBe32Ms := 100, tBe64Ms := 200, tCeMs := 1000, pollMs := 1
    filler := 0xA5 }

/-- The reset state with that configuration and the host's answers, taken one operation at a time (log 3). -/
def at0 (xs : List XferAnswer) (ms : List U32) : State :=
  { State.reset with cfg := cfg, xfers := xs, millis := ms, byEvents := false }

/-- The state an outcome goes on to (the reset state for a stop). -/
def out : Host.Outcome State Fault Refusal → State
  | .next t => t
  | .fault _ => State.reset
  | .refused _ => State.reset

/-- Whether an outcome is a next state. -/
def goesOn : Host.Outcome State Fault Refusal → Bool
  | .next _ => true
  | .fault _ => false
  | .refused _ => false

theorem next_of_goesOn {o : Host.Outcome State Fault Refusal} (h : goesOn o = true) : o = .next (out o) := by
  cases o with
  | next t => rfl
  | fault f => exact absurd h (by simp [goesOn])
  | refused r => exact absurd h (by simp [goesOn])

/-- What a run adds to a trace. -/
def added (i : Instr) (s : State) : List Event := (out (exec i s)).trace.drop s.trace.length

/-- The events of a run that are Transfers, as the bytes sent. -/
def sent (i : Instr) (s : State) : List (List Byte) :=
  (added i s).filterMap fun e =>
    match e with
    | .transfer tx _ => some tx
    | _ => none

/-- Operands with a buffer and write data. -/
def withData (a : U32) (d : List Byte) : Args :=
  { addr := a, len := BitVec.ofNat 32 d.length, bufp := true, wdata := d }

/-- Operands with a buffer and a length. -/
def withLen (a n : U32) : Args := { addr := a, len := n, bufp := true, wdata := [] }

/-- Operands with an address alone. -/
def withAddr (a : U32) : Args := { addr := a, len := 0, bufp := false, wdata := [] }

/-- A wait that finds the device ready at the first poll. -/
def ready (t0 : U32) : WaitScript := { t0 := t0, busy := [], last := [0, 0] }

/-- A wait with one busy poll before the ready one. -/
def busyOnce (t0 now : U32) : WaitScript := { t0 := t0, busy := [⟨[0, 3], now⟩], last := [0, 0] }

/-- A command along which every answer is good. -/
def script (rxs : List (List Byte)) : CommandScript :=
  { ready := ready 100, wren := [0], command := rxs, complete := busyOnce 100 101 }

/-- A state in which a script's answers are all there is. -/
def along (c : CommandScript) : State := at0 c.answers c.readings

/-! ## WellFormed refuses -/

theorem smoke_read_no_byte : (Instr.read 0x001000 0).wf cfg = false := by decide +kernel
theorem smoke_fastRead_no_byte : (Instr.fastRead 0x001000 0).wf cfg = false := by decide +kernel
theorem smoke_pp_empty : (Instr.pp 0x001000 []).wf cfg = false := by decide +kernel
theorem smoke_pp_over_page : (Instr.pp 0 [1, 2, 3]).wf { cfg with pageSize := 2 } = false := by decide +kernel
theorem smoke_pp_full_page : (Instr.pp 0 [1, 2]).wf { cfg with pageSize := 2 } = true := by decide +kernel
theorem smoke_write_short : (Instr.reqWrite { withLen 0 2 with wdata := [1] }).wf cfg = false := by decide +kernel
theorem smoke_wpage_long : (Instr.reqWpage { withLen 0 1 with wdata := [1, 2] }).wf cfg = false := by decide +kernel
theorem smoke_write_nobuf_data : (Instr.reqWrite { withAddr 0 with len := 1, wdata := [1] }).wf cfg = false := by
  decide +kernel
theorem smoke_write_nobuf_len : (Instr.reqWrite { withAddr 0 with len := 4 }).wf cfg = true := by decide +kernel
theorem smoke_plain_requests_with_data :
    [Instr.reqInit, .reqRead, .reqFread, .reqEsect, .reqEb32, .reqEb64, .reqEchip, .reqInfo, .reservedAB 0,
      .reservedCF 0].all (fun mk => !(mk { withLen 0 1 with wdata := [1] }).wf cfg) = true := by decide +kernel

/-! ## Decoding, from bytes written out of R91, R93, R97 -/

theorem test_decode_wren : decodeFrame [0x06] = .ok .wren := rfl
theorem test_decode_rdsr : decodeFrame [0x05, 0xA5] = .ok .rdsr := rfl
theorem test_decode_read : decodeFrame [0x03, 0x00, 0x10, 0x02, 0xA5, 0xA5] = .ok (.read 0x001002 2) := by rfl
theorem test_decode_fastRead :
    decodeFrame [0x0B, 0x07, 0xFF, 0xFE, 0xA5, 0xA5] = .ok (.fastRead 0x07FFFE 1) := by rfl
theorem test_decode_pp : decodeFrame [0x02, 0x00, 0x0F, 0xF0, 0x11, 0x22] = .ok (.pp 0x000FF0 [0x11, 0x22]) := by
  rfl
theorem test_decode_se : decodeFrame [0x20, 0x12, 0x34, 0x56] = .ok (.se 0x123456) := by rfl
theorem test_decode_be32 : decodeFrame [0x52, 0x07, 0x80, 0x01] = .ok (.be32 0x078001) := by rfl
theorem test_decode_be64 : decodeFrame [0xD8, 0x07, 0x00, 0x02] = .ok (.be64 0x070002) := by rfl
theorem test_decode_ce : decodeFrame [0xC7] = .ok .ce := rfl
theorem test_decode_rdjdid : decodeFrame [0x9F, 0xA5, 0xA5, 0xA5] = .ok .rdjdid := rfl
theorem test_decode_rdid : decodeFrame [0x90, 0x00, 0x00, 0x00, 0xA5, 0xA5] = .ok .rdid := by rfl
theorem test_decode_rduid : decodeFrame (0x4B :: List.replicate 12 0xA5) = .ok .rduid := by rfl
theorem test_decode_rdid_nonzero_address :
    decodeFrame [0x90, 0x00, 0x01, 0x00, 0xA5, 0xA5] = .error (.wrongAddress 0x90) := by rfl
theorem test_decode_wrong_length : decodeFrame [0x06, 0x00] = .error (.wrongLength 0x06) := rfl
theorem test_decode_unknown : decodeFrame [0x04] = .error (.unknownOpcode 0x04) := rfl
theorem test_decode_empty : decodeFrame [] = .error .emptyFrame := rfl

/-- R100: every code, with operands carried over. -/
theorem test_decode_requests :
    ((List.range 16).map fun n => decodeRequest { toArgs := withLen 3 4, op := BitVec.ofNat 4 n }) =
      [.reqInit (withLen 3 4), .reqRead (withLen 3 4), .reqFread (withLen 3 4), .reqWpage (withLen 3 4),
        .reqWrite (withLen 3 4), .reqEsect (withLen 3 4), .reqEb32 (withLen 3 4), .reqEb64 (withLen 3 4),
        .reqEchip (withLen 3 4), .reqInfo (withLen 3 4), .reservedAB 0 (withLen 3 4), .reservedAB 1 (withLen 3 4),
        .reservedCF 0 (withLen 3 4), .reservedCF 1 (withLen 3 4), .reservedCF 2 (withLen 3 4),
        .reservedCF 3 (withLen 3 4)] := by decide +kernel

/-- The table's numbering: bit 0 is the low bit of the first byte. The last word is no opcode (log 6). -/
theorem test_table_words :
    decodeTableWord 8 0x06 = some .wren ∧ decodeTableWord 32 0x56341220 = some (.se 0x123456) ∧
      decodeTableWord 4 0x2 = some (.reqFread (withAddr 0)) ∧
      decodeTableWord 8 0x04 = some (.reqWrite (withAddr 0)) ∧
      decodeTableWord 8 0x99 = some (.reqInfo (withAddr 0)) := by decide +kernel

/-! ## Encoding, 95_test_vectors.md 2.1 -/

/-- V-E6, V-E16, V-E18. -/
theorem test_addrFrame :
    addrFrame cfg 0x0B 0x07FFFF 1 = [0x0B, 0x07, 0xFF, 0xFF, 0xA5] ∧
      addrFrame cfg 0x03 0x01234567 0 = [0x03, 0x23, 0x45, 0x67] ∧
      addrFrame cfg 0x0B 0 3 = [0x0B, 0, 0, 0, 0xA5, 0xA5, 0xA5] := by decide +kernel

/-- V-E14: the address bytes of 0x90 do not depend on FILLER. -/
theorem test_frameRDID : frameRDID cfg = [0x90, 0, 0, 0, 0xA5, 0xA5] := by decide +kernel

/-- R133, R98: 13 bytes, whatever UID_BYTES is (D37). -/
theorem test_frameRDUID : frameRDUID { cfg with uidBytes := 3 } = 0x4B :: List.replicate 12 0xA5 := by decide +kernel

/-- V-D1 to V-D6. -/
theorem test_decodeStatus :
    [(0x00 : Byte), 0x01, 0x02, 0x03, 0xFC].map (fun b => decodeStatus [0xFF, b]) =
      [(false, false), (true, false), (false, true), (true, true), (false, false)] := by decide +kernel

/-! ## Wire frames -/

theorem test_wren_window : sent .wren (at0 [.ok [0]] []) = [[0x06]] := by decide +kernel
theorem test_rdsr_latches : (out (exec .rdsr (at0 [.ok [0xFF, 0x03]] []))).sr = 0x03 := by decide +kernel
theorem test_read_field :
    (out (exec (.read 0x001000 2) (at0 [.ok [9, 9, 9, 9], .ok [0xDE, 0xAD]] []))).frameRx = [0xDE, 0xAD] := by
  decide +kernel
theorem test_fastRead_sent :
    sent (.fastRead 0x07FFFF 1) (at0 [.ok [0, 0, 0, 0, 0], .ok [7]] []) =
      [[0x0B, 0x07, 0xFF, 0xFF, 0xA5], [0xA5]] := by decide +kernel
theorem test_pp_sent :
    sent (.pp 0x000FF0 [0x11, 0x12]) (at0 [.ok [0, 0, 0, 0], .ok [0, 0]] []) =
      [[0x02, 0x00, 0x0F, 0xF0], [0x11, 0x12]] := by decide +kernel
theorem test_se_not_aligned : sent (.se 0x123456) (at0 [.ok [0, 0, 0, 0]] []) = [[0x20, 0x12, 0x34, 0x56]] := by
  decide +kernel
theorem test_be32_sent : sent (.be32 0x078000) (at0 [.ok [0, 0, 0, 0]] []) = [[0x52, 0x07, 0x80, 0x00]] := by
  decide +kernel
theorem test_be64_fault_reach :
    (out (exec (.be64 0x01FFFF) (at0 [.fault] []))).unknownFlash = [⟨0x10000, 65536⟩] := by decide +kernel
theorem test_ce_sent : sent .ce (at0 [.ok [0]] []) = [[0xC7]] := by decide +kernel
theorem test_rdjdid_field :
    (out (exec .rdjdid (at0 [.ok [0xFF, 0x9D, 0x60, 0x13]] []))).frameRx = [0x9D, 0x60, 0x13] := by decide +kernel
/-- R132, V-E14: its bytes, and no event between acceptance and response. -/
theorem test_rdid_only_built :
    (out (exec .rdid (at0 [.ok [1, 2, 3, 4, 5, 6]] []))).frameTx = [0x90, 0, 0, 0, 0xA5, 0xA5] ∧
      added .rdid (at0 [.ok [1, 2, 3, 4, 5, 6]] []) = [.acceptFrame .rdid, okResponse [] []] := by decide +kernel
theorem test_rduid_field :
    (out (exec .rduid (at0 [.ok [0, 0, 0, 0, 0, 1, 2, 3, 4, 5, 6, 7, 8]] []))).frameRx = [1, 2, 3, 4, 5, 6, 7, 8] := by
  decide +kernel

/-! ## Requests -/

/-- The answers of P1, step 2. -/
def initOk : State := at0 [.ok [0, 0x9D, 0x60, 0x13], .ok [0, 0, 0, 0, 0, 0x55, 0xAA, 1, 2, 3, 4, 5, 6]] []

/-- V-ID1, P1 step 2. -/
theorem test_init_ok :
    let t := out (exec (.reqInit (withAddr 0)) initOk)
    t.init = true ∧ (t.idMfr, t.idType, t.idCap) = (0x9D, 0x60, 0x13) ∧ t.uid = [0x55, 0xAA, 1, 2, 3, 4, 5, 6] := by
  decide +kernel

/-- V-ID2: a re-run that meets another capacity code. -/
theorem test_init_mismatch :
    let t := out (exec (.reqInit (withAddr 0)) { at0 [.ok [0, 0x9D, 0x60, 0x14]] [] with init := true, idCap := 0x13 })
    t.init = false ∧ t.idCap = 0x13 ∧ t.cause = .identityMismatch := by decide +kernel

/-- R182's example. -/
theorem test_reqRead_data :
    (out (exec (.reqRead (withLen 0x001000 4))
      (at0 [.ok [0, 0], .ok [0, 0, 0, 0], .ok [0xDE, 0xAD, 0xBE, 0xEF]] [100]))).rdata =
        [0xDE, 0xAD, 0xBE, 0xEF] := by decide +kernel

/-- V-R6: the sum does not wrap. -/
theorem test_reqRead_no_wrap :
    added (.reqRead (withLen 0xFFFFFFFF 2)) (at0 [] []) =
      [.accept { toArgs := withLen 0xFFFFFFFF 2, op := 1 }, errorResponse .outOfRange] := by decide +kernel

/-- R183's example. -/
theorem test_reqFread_sent :
    sent (.reqFread (withLen 0x07FFFF 1)) (at0 [.ok [0, 0], .ok [0, 0, 0, 0, 0], .ok [9]] [100]) =
      [[0x05, 0xA5], [0x0B, 0x07, 0xFF, 0xFF, 0xA5], [0xA5]] := by decide +kernel

/-- V-R9: the buffer check comes first. -/
theorem test_reqFread_order :
    (out (exec (.reqFread { withAddr 0x80000 with len := 0 }) (at0 [] []))).cause = .invalidArgument := by
  decide +kernel

/-- V-P3: the last byte of a page. -/
theorem test_reqWpage_last_byte :
    sent (.reqWpage (withData 0x10FF [0x01])) (along (script [[0, 0, 0, 0], [0]])) =
      [[0x05, 0xA5], [0x06], [0x02, 0x00, 0x10, 0xFF], [0x01], [0x05, 0xA5], [0x05, 0xA5]] := by decide +kernel

/-- V-P8: range before crossing. -/
theorem test_reqWpage_order :
    (out (exec (.reqWpage (withData 0x7FFFF [1, 2])) (at0 [] []))).cause = .outOfRange := by decide +kernel

/-- S2, scaled to two bytes: two chunks across the page end at 0x1000. -/
theorem test_reqWrite_split :
    sent (.reqWrite (withData 0x0FFF [0x11, 0x22]))
      (at0 ((script [[0, 0, 0, 0], [0]]).answers ++ (script [[0, 0, 0, 0], [0]]).answers)
        ((script []).readings ++ (script []).readings)) =
      [[0x05, 0xA5], [0x06], [0x02, 0x00, 0x0F, 0xFF], [0x11], [0x05, 0xA5], [0x05, 0xA5],
        [0x05, 0xA5], [0x06], [0x02, 0x00, 0x10, 0x00], [0x22], [0x05, 0xA5], [0x05, 0xA5]] := by decide +kernel

/-- V-W3. -/
theorem test_reqWrite_empty :
    (out (exec (.reqWrite (withData 0 [])) (at0 [] []))).cause = .invalidArgument := by decide +kernel

/-- R186's example. -/
theorem test_reqEsect_aligned :
    (sent (.reqEsect (withAddr 0x001234)) (along (script [[0, 0, 0, 0]])))[2]? =
      some [0x20, 0x00, 0x10, 0x00] := by decide +kernel

/-- 95_test_vectors.md 2.4: with SECTOR_SIZE = 3000, ESECT 7000 goes to 6000. -/
theorem test_reqEsect_not_power_of_two :
    (out (exec (.reqEsect (withAddr 7000))
      { along (script [[0, 0, 0, 0]]) with cfg := { cfg with sectorSize := 3000 } })).addr = 6000 := by decide +kernel

/-- R187's example. -/
theorem test_reqEb32_aligned :
    (sent (.reqEb32 (withAddr 0x009ABC)) (along (script [[0, 0, 0, 0]])))[2]? =
      some [0x52, 0x00, 0x80, 0x00] := by decide +kernel

/-- R188's example, and its corner just past the end. -/
theorem test_reqEb64_aligned :
    (sent (.reqEb64 (withAddr 0x07FFFF)) (along (script [[0, 0, 0, 0]])))[2]? = some [0xD8, 0x07, 0x00, 0x00] ∧
      sent (.reqEb64 (withAddr 0x80000)) (along (script [[0, 0, 0, 0]])) = [] := by decide +kernel

/-- R189. -/
theorem test_reqEchip_sent :
    sent (.reqEchip (withLen 0xFFFFFFFF 9)) (along (script [[0]])) =
      [[0x05, 0xA5], [0x06], [0xC7], [0x05, 0xA5], [0x05, 0xA5]] := by decide +kernel

/-- V-N1. -/
theorem test_reqInfo_not_initialized :
    (out (exec (.reqInfo (withAddr 0)) (at0 [] []))).cause = .notInitialized := by decide +kernel

/-- P1 step 3. -/
theorem test_reqInfo_payload :
    (out (exec (.reqInfo (withAddr 0))
      { at0 [.ok [0, 0, 0, 0, 0, 0xB1, 2, 3, 4, 5, 6, 7, 8]] [] with
        init := true, idMfr := 0x9D, idType := 0x60, idCap := 0x13 })).info =
      [0x9D, 0x60, 0x13, 0xB1, 2, 3, 4, 5, 6, 7, 8] := by decide +kernel

/-- V-Q1, V-Q2. -/
theorem test_reserved_codes :
    (out (exec (.reservedAB 0 (withAddr 0)) (at0 [] []))).cause = .invalidArgument ∧
      (out (exec (.reservedCF 3 (withAddr 0)) (at0 [] []))).cause = .invalidArgument := by decide +kernel

/-! ## The wait, 95_test_vectors.md 2.6 -/

/-- V-T2: polled at least once, and a Timeout at elapsed 0 of a budget 0. -/
theorem test_wait_zero_budget :
    let t := out (exec (.reqRead (withLen 0 1))
      { at0 [.ok [0, 1]] [100, 100] with cfg := { cfg with tReadyMs := 0 } })
    t.cause = .timeout ∧ sent (.reqRead (withLen 0 1))
      { at0 [.ok [0, 1]] [100, 100] with cfg := { cfg with tReadyMs := 0 } } = [[0x05, 0xA5]] := by decide +kernel

/-- V-T5: the elapsed time across a wrap of the counter is 32. -/
theorem test_wait_wrap :
    timedOut 0xFFFFFFF0 32 0x00000010 = true ∧ timedOut 0xFFFFFFF0 33 0x00000010 = false := by decide +kernel

/-- V-T8: a poll's fault is TransportFault, with no second Millis. -/
theorem test_wait_fault :
    let t := out (exec (.reqRead (withLen 0 1)) (at0 [.fault] [100, 200]))
    t.cause = .transportFault ∧ t.millis = [200] := by decide +kernel

/-- R239: with the transport silent, the block stays in its phase with the window open. -/
theorem test_transfer_unanswered :
    let t := out (exec (.reqEchip (withAddr 0)) (at0 [.ok [0, 0]] [100]))
    t.phase = .writeEnable ∧ t.cs = true ∧ tick t = none := by decide +kernel

/-! ## Witnesses: states and operands that meet the hypotheses of the statements -/

/-- Bytes of zeros, as many as sent. -/
def zeros (tx : List Byte) : List Byte := List.replicate tx.length 0

theorem witness_UnknownOpcodeIsRefused :
    ∀ op ∈ ([0x00, 0x04, 0x99, 0xFF] : List Byte),
      op ∉ ([0x06, 0x05, 0x03, 0x0B, 0x02, 0x20, 0x52, 0xD8, 0xC7, 0x9F, 0x90, 0x4B] : List Byte) := by decide +kernel

theorem witness_UidDecodesFromByte5 : ([1, 2, 3, 4, 5, 6, 7, 8] : List Byte).length = 8 := rfl

/-- An offered frame and an offered request, at either grain. -/
theorem witness_StepRunsTheDecodedInstruction :
    ∀ p ∈ [(Offer.frame [0x06], Instr.wren),
        (.request { toArgs := withLen 0 4, op := 1 }, .reqRead (withLen 0 4))],
      ∀ b ∈ [false, true],
        let s := { at0 [] [] with inbox := [p.1], byEvents := b }
        s.resetLine = false ∧ s.phase = .idle ∧ s.inbox = [p.1] ∧ decode p.1 = .ok p.2 ∧
          p.2.wf s.cfg = true ∧ s.foreignWindow = false ∧ s.byEvents = b := by
  intro p hp b _
  simp only [List.mem_cons, List.not_mem_nil, or_false] at hp
  rcases hp with rfl | rfl <;> exact ⟨rfl, rfl, rfl, rfl, rfl, rfl, rfl⟩

/-- One request per clause of R102: a write one byte short, a write without a buffer that has data, a read with
data. -/
theorem witness_MalformedRequestIsRefused :
    ∀ r ∈ [({ toArgs := { withLen 0 2 with wdata := [1] }, op := 3 } : Request),
        { toArgs := { withAddr 0 with wdata := [1] }, op := 4 },
        { toArgs := { withLen 0 1 with wdata := [1] }, op := 1 }],
      let s := { at0 [] [] with inbox := [.request r] }
      s.resetLine = false ∧ s.phase = .idle ∧ s.inbox = [.request r] ∧
        ¬ (if (r.op = 0x3 ∨ r.op = 0x4) ∧ r.bufp = true then r.wdata.length = r.len.toNat else r.wdata = []) := by
  decide +kernel

theorem witness_NothingIsAcceptedWhileBusy :
    let s := { at0 [] [100] with phase := .waitReady, inbox := [.frame [0x06]] }
    s.phase ≠ .idle ∧ ∃ t, step s = .next t ∧ t.pos = .poll := ⟨by decide +kernel, _, rfl, rfl⟩

theorem witness_InterleavedWindowIsAFault_busy :
    let s := { at0 [] [] with foreignWindow := true, phase := .validate }
    s.resetLine = false ∧ s.foreignWindow = true ∧ s.phase ≠ .idle := by decide +kernel

theorem witness_InterleavedWindowIsAFault_idle :
    let s := { at0 [] [] with foreignWindow := true, inbox := [.frame [0xC7]] }
    s.resetLine = false ∧ s.foreignWindow = true ∧ s.phase = .idle ∧ s.inbox = [.frame [0xC7]] ∧
      decode (.frame [0xC7]) = .ok .ce ∧ Instr.ce.wf s.cfg = true := ⟨rfl, rfl, rfl, rfl, rfl, rfl⟩

/-- A chip erase offered to a block that is taken event by event, with all its answers at hand. -/
def eventByEvent : State :=
  { along (script [[0]]) with inbox := [.request { toArgs := withAddr 0, op := 8 }], byEvents := true }

theorem witness_OneEventPerStep :
    eventByEvent.byEvents = true ∧ ∃ t, step eventByEvent = .next t ∧
      t.trace = eventByEvent.trace ++ [.accept { toArgs := withAddr 0, op := 8 }] :=
  ⟨rfl, _, next_of_goesOn (by decide +kernel), by decide +kernel⟩

theorem witness_StepsByEventReachTheMeaning :
    eventByEvent.resetLine = false ∧ eventByEvent.phase = .idle ∧
      eventByEvent.inbox = .request { toArgs := withAddr 0, op := 8 } :: [] ∧
      decode (.request { toArgs := withAddr 0, op := 8 }) = .ok (.reqEchip (withAddr 0)) ∧
      (Instr.reqEchip (withAddr 0)).wf eventByEvent.cfg = true ∧ eventByEvent.foreignWindow = false ∧
      eventByEvent.byEvents = true := ⟨rfl, rfl, rfl, rfl, rfl, rfl, rfl⟩

theorem witness_ConfigurationStaysValid : ∃ t, step eventByEvent = .next t ∧ t.phase = .validate :=
  ⟨_, next_of_goesOn (by decide +kernel), by decide +kernel⟩

theorem witness_ResetAbandonsTheOperation :
    { at0 [] [] with resetLine := true, phase := .commandIssue, cs := true }.resetLine = true := rfl

/-- Every one-Transfer frame, with the last address of the wire field. -/
theorem witness_OneWindowFramesComplete :
    ∀ p ∈ oneWindowFrames cfg 0xFFFFFF,
      let s := at0 [.ok (zeros p.2.1)] []
      p ∈ oneWindowFrames s.cfg 0xFFFFFF ∧ s.phase = .idle ∧ s.xfers = [.ok (zeros p.2.1)] ∧
        (zeros p.2.1).length = p.2.1.length := by
  intro p hp
  exact ⟨hp, rfl, rfl, by simp [zeros]⟩

/-- Every two-Transfer frame, receiving and sending one byte. -/
theorem witness_TwoPartFramesComplete :
    ∀ p ∈ twoPartFrames cfg 0xFFFFFF 1 [0x11],
      let s := at0 [.ok (zeros p.2.1), .ok (zeros p.2.2.1)] []
      p ∈ twoPartFrames s.cfg 0xFFFFFF 1 [0x11] ∧ s.phase = .idle ∧
        s.xfers = .ok (zeros p.2.1) :: .ok (zeros p.2.2.1) :: [] ∧
        (zeros p.2.1).length = p.2.1.length ∧ (zeros p.2.2.1).length = p.2.2.1.length := by
  intro p hp
  exact ⟨hp, rfl, rfl, by simp [zeros], by simp [zeros]⟩

theorem witness_ReadDeviceIdIsBuiltAndNotIssued : (at0 [] []).phase = .idle := rfl

/-- The first Transfer of a frame of one and of a frame of two, and the second Transfer. -/
theorem witness_FaultedFrameClosesItsWindow :
    ∀ p ∈ [(Instr.ce, ([] : List (List Byte))), (.pp 0x000FFF [1, 2], []), (.pp 0x000FFF [1, 2], [[0, 0, 0, 0]]),
        (.read 0xFFFFFF 1, [[0, 0, 0, 0]]), (.fastRead 0xFFFFFF 1, [[0, 0, 0, 0, 0]])],
      let s := at0 (p.2.map .ok ++ .fault :: []) []
      isRequest p.1 = false ∧ p.1 ≠ .rdid ∧ answersBegin (wireParts s.cfg p.1) p.2 ∧ s.phase = .idle ∧
        s.xfers = p.2.map .ok ++ .fault :: [] := by
  unfold answersBegin answersFit
  decide +kernel

/-- One request per check of R180, at the boundary the check looks at. -/
theorem witness_FailedValidationMakesNoTraffic :
    ∀ p ∈ [(Instr.reqRead { withAddr 0 with len := 1 }, (1 : BitVec 4), Cause.invalidArgument),
        (.reqFread (withLen 0x80000 0), 2, .invalidArgument), (.reqRead (withLen 0x7FFFC 5), 1, .outOfRange),
        (.reqWpage { withAddr 0 with len := 1 }, 3, .invalidArgument), (.reqWpage (withLen 0 0), 3, .invalidArgument),
        (.reqWpage (withLen 0x80000 1), 3, .outOfRange), (.reqWpage (withLen 0x1000 257), 3, .invalidArgument),
        (.reqWpage (withLen 0x10FF 2), 3, .invalidArgument), (.reqWrite (withLen 0x7FFFF 2), 4, .outOfRange),
        (.reqEsect (withAddr 0x80000), 5, .outOfRange), (.reqEb32 (withAddr 0x80000), 6, .outOfRange),
        (.reqEb64 (withAddr 0xFFFFFFFF), 7, .outOfRange), (.reqInfo (withAddr 0), 9, .notInitialized),
        (.reservedAB 1 (withAddr 0), 0xB, .invalidArgument), (.reservedCF 3 (withAddr 0), 0xF, .invalidArgument)],
      let s := at0 [] []
      s.phase = .idle ∧ (requestOf s.cfg p.1).map (fun r => r.op) = some p.2.1 ∧
        specCause s.cfg s.init p.1 = some p.2.2 := by decide +kernel

theorem witness_ReservedCodesAnswerInvalidArgument :
    (at0 [] []).phase = .idle ∧
      (Instr.reservedAB 1 (withAddr 0), mkRequest (0b101#3 ++ 1#1) (withAddr 0)) ∈
        [(Instr.reservedAB 1 (withAddr 0), mkRequest (0b101#3 ++ 1#1) (withAddr 0)),
          (Instr.reservedCF 3 (withAddr 0), mkRequest (0b11#2 ++ 3#2) (withAddr 0))] ∧
      (Instr.reservedCF 3 (withAddr 0), mkRequest (0b11#2 ++ 3#2) (withAddr 0)) ∈
        [(Instr.reservedAB 1 (withAddr 0), mkRequest (0b101#3 ++ 1#1) (withAddr 0)),
          (Instr.reservedCF 3 (withAddr 0), mkRequest (0b11#2 ++ 3#2) (withAddr 0))] := by
  simp [at0, State.reset]

theorem witness_InitCachesIdentityAndUid :
    initOk.phase = .idle ∧
      initOk.xfers = .ok [0, 0x9D, 0x60, 0x13] :: .ok [0, 0, 0, 0, 0, 0x55, 0xAA, 1, 2, 3, 4, 5, 6] :: [] ∧
      ([0, 0x9D, 0x60, 0x13] : List Byte).length = 4 ∧
      ([0, 0, 0, 0, 0, 0x55, 0xAA, 1, 2, 3, 4, 5, 6] : List Byte).length = 13 ∧
      rxAt [0, 0x9D, 0x60, 0x13] 1 = initOk.cfg.expMfr ∧ rxAt [0, 0x9D, 0x60, 0x13] 3 = initOk.cfg.expCap := by
  decide +kernel

/-- A wrong capacity code, and a wrong manufacturer. -/
theorem witness_InitMismatchLeavesNotInitialized :
    ∀ rx ∈ ([[0, 0x9D, 0x60, 0x14], [0, 0x9C, 0x60, 0x13]] : List (List Byte)),
      let s := at0 [.ok rx] []
      s.phase = .idle ∧ s.xfers = [.ok rx] ∧ rx.length = 4 ∧
        ¬ (rxAt rx 1 = s.cfg.expMfr ∧ rxAt rx 3 = s.cfg.expCap) := by decide +kernel

/-- Both sides of the equivalence occur. -/
theorem witness_InitIsSetExactlyOnOk :
    (∃ t, initOk.phase = .idle ∧ exec (.reqInit (withAddr 0)) initOk = .next t ∧ t.init = true) ∧
      ∃ t, (at0 [.fault] []).phase = .idle ∧ exec (.reqInit (withAddr 0)) (at0 [.fault] []) = .next t ∧
        t.init = false :=
  ⟨⟨_, rfl, next_of_goesOn (by decide +kernel), by decide +kernel⟩,
    _, rfl, next_of_goesOn (by decide +kernel), by decide +kernel⟩

theorem witness_InfoReturnsTripleAndFreshUid :
    let s := { at0 [.ok (List.replicate 13 7)] [] with init := true }
    s.phase = .idle ∧ s.init = true ∧ s.xfers = [.ok (List.replicate 13 7)] ∧
      (List.replicate 13 (7 : Byte)).length = 13 := ⟨rfl, rfl, rfl, rfl⟩

theorem witness_InfoFaultLeavesTheHandle :
    let s := { at0 [.fault] [] with init := true }
    s.phase = .idle ∧ s.init = true ∧ s.xfers = [.fault] := ⟨rfl, rfl, rfl⟩

/-- Both reads, one byte ending exactly at CHIP_SIZE, after one busy poll. -/
theorem witness_ReadsReturnTheReceivedBytes :
    ∀ p ∈ [(Instr.reqRead (withLen 0x7FFFF 1), (0x1 : BitVec 4), (0x03 : Byte) :: wireAddr 0x7FFFF),
        (Instr.reqFread (withLen 0x7FFFF 1), (0x2 : BitVec 4), (0x0B : Byte) :: (wireAddr 0x7FFFF ++ [cfg.filler]))],
      let w := busyOnce 100 104
      let s := at0 (w.answers ++ .ok (zeros p.2.2) :: .ok [9] :: []) (w.readings ++ [])
      p ∈ [(Instr.reqRead (withLen 0x7FFFF 1), (0x1 : BitVec 4), (0x03 : Byte) :: wireAddr 0x7FFFF),
        (Instr.reqFread (withLen 0x7FFFF 1), (0x2 : BitVec 4),
          (0x0B : Byte) :: (wireAddr 0x7FFFF ++ [s.cfg.filler]))] ∧
      s.phase = .idle ∧ (withLen 0x7FFFF 1).bufp = true ∧ (withLen 0x7FFFF 1).len.toNat ≠ 0 ∧
      (withLen 0x7FFFF 1).addr.toNat + (withLen 0x7FFFF 1).len.toNat ≤ s.cfg.chipSize ∧ w.Good s.cfg.tReadyMs ∧
      s.xfers = w.answers ++ .ok (zeros p.2.2) :: .ok [9] :: [] ∧ s.millis = w.readings ++ [] ∧
      (zeros p.2.2).length = p.2.2.length ∧ ([9] : List Byte).length = (withLen 0x7FFFF 1).len.toNat := by
  unfold WaitScript.Good
  decide +kernel

/-- Both ways a wait fails, one of them after a busy poll. -/
def failedWaits (budget : U32) : List FailedWait :=
  [⟨100, [⟨[0, 3], 100⟩], .fault⟩, ⟨100, [], .late ⟨[0, 1], 100 + budget⟩⟩]

theorem poll_flags :
    busyFlag (rxAt [0, 3] 1) = true ∧ busyFlag (rxAt [0, 1] 1) = true ∧ busyFlag (rxAt [0, 0] 1) = false := by
  decide +kernel

theorem failedWaits_fail {b : U32} (hb : 0 < b) : ∀ w ∈ failedWaits b, w.Fails b := by
  intro w hw
  simp only [failedWaits, List.mem_cons, List.not_mem_nil, or_false] at hw
  rcases hw with rfl | rfl
  · refine ⟨fun p hp => ?_, trivial⟩
    obtain rfl : p = ⟨[0, 3], 100⟩ := by simpa using hp
    refine ⟨rfl, poll_flags.1, ?_⟩
    have : b ≠ 0 := by rintro rfl; exact absurd hb (by decide)
    simpa [timedOut, elapsed] using this
  · exact ⟨fun p hp => absurd hp (by simp), rfl, poll_flags.2.1, by simp [timedOut, elapsed]⟩

/-- A fault of each Transfer of a command window, with what was answered before it. -/
def answeredBefore (parts : List (List Byte)) : List (List (List Byte)) :=
  (List.range parts.length).map fun k => (parts.take k).map zeros

theorem answeredBefore_begin {parts : List (List Byte)} : ∀ rxs ∈ answeredBefore parts, answersBegin parts rxs := by
  intro rxs h
  obtain ⟨k, hk, rfl⟩ := List.mem_map.1 h
  have hk := List.mem_range.1 hk
  have hl : ((parts.take k).map zeros).length = k := by simp; omega
  refine ⟨by omega, ?_⟩
  rw [hl]
  simp [answersFit, zeros, Function.comp_def]

/-- Every way a program or an erase fails. -/
def failedCommands (budget : U32) (parts : List (List Byte)) : List FailedCommand :=
  (failedWaits cfg.tReadyMs).map .ready ++ [.writeEnable (ready 100)] ++
    (answeredBefore parts).map (.command (ready 100) [0]) ++
    (failedWaits budget).map (.complete (ready 100) [0] (parts.map zeros))

theorem ready_good (t0 budget : U32) : (ready t0).Good budget :=
  ⟨fun p hp => absurd hp (by simp [ready]), rfl, poll_flags.2.2⟩

theorem ready_budget : 0 < cfg.tReadyMs := by decide +kernel

theorem failedCommands_fail {b : U32} {parts : List (List Byte)} (hb : 0 < b) :
    ∀ f ∈ failedCommands b parts, f.Fails cfg b parts := by
  intro f hf
  simp only [failedCommands, List.mem_append, List.mem_map, List.mem_singleton] at hf
  rcases hf with ((⟨w, hw, rfl⟩ | rfl) | ⟨rxs, h, rfl⟩) | ⟨w, hw, rfl⟩
  · exact failedWaits_fail ready_budget w hw
  · exact ready_good 100 _
  · exact ⟨ready_good 100 _, rfl, answeredBefore_begin rxs h⟩
  · exact ⟨ready_good 100 _, rfl, by simp [answersFit, zeros, Function.comp_def], failedWaits_fail hb w hw⟩

/-- Both reads of one byte ending exactly at CHIP_SIZE, failing in the wait and in either Transfer. -/
theorem witness_ReadFailureLeavesNothingUnknown :
    ∀ p ∈ readHeaders cfg (withLen 0x7FFFF 1),
      let parts := [p.2.2, [cfg.filler]]
      ∀ f ∈ (failedWaits cfg.tReadyMs).map FailedRead.ready ++ (answeredBefore parts).map (.command (ready 100)),
        let s := at0 f.answers f.readings
        p ∈ readHeaders s.cfg (withLen 0x7FFFF 1) ∧ s.phase = .idle ∧ specCause s.cfg s.init p.1 = none ∧
          f.Fails s.cfg [p.2.2, List.replicate (withLen 0x7FFFF 1).len.toNat s.cfg.filler] ∧
          s.xfers = f.answers ++ [] ∧ s.millis = f.readings ++ [] := by
  intro p hp parts f hf
  refine ⟨hp, rfl, ?_, ?_, by simp [at0], by simp [at0]⟩
  · simp only [readHeaders, List.mem_cons, List.not_mem_nil, or_false] at hp
    rcases hp with rfl | rfl <;> rfl
  · simp only [List.mem_append, List.mem_map] at hf
    rcases hf with ⟨w, hw, rfl⟩ | ⟨rxs, h, rfl⟩
    · exact failedWaits_fail ready_budget w hw
    · exact ⟨ready_good 100 _, answeredBefore_begin rxs h⟩

/-- The last byte of the last page. -/
theorem witness_WritePageProgramsInOneFrame :
    let q := withData 0x7FFFF [0x11]
    let c := script [[0, 0, 0, 0], [0]]
    let s := along c
    s.phase = .idle ∧ q.bufp = true ∧ q.wdata.length = q.len.toNat ∧ q.len.toNat ≠ 0 ∧
      q.addr.toNat + q.len.toNat ≤ s.cfg.chipSize ∧ q.len.toNat ≤ s.cfg.pageSize ∧
      q.addr.toNat % s.cfg.pageSize + q.len.toNat ≤ s.cfg.pageSize ∧
      c.Good s.cfg s.cfg.tPpMs [0x02 :: wireAddr q.addr, q.wdata] ∧ s.xfers = c.answers ++ [] ∧
      s.millis = c.readings ++ [] := by
  unfold CommandScript.Good WaitScript.Good answersFit
  decide +kernel

/-- Two chunks of one byte each, across the page end at 0x1000. -/
theorem witness_WriteProgramsEveryChunk :
    let q := withData 0x0FFF [0x11, 0x22]
    let c := script [[0, 0, 0, 0], [0]]
    let s := at0 (([c] ++ [c]).flatMap CommandScript.answers ++ []) (([c] ++ [c]).flatMap CommandScript.readings ++ [])
    s.cfg.Valid ∧ s.phase = .idle ∧ q.bufp = true ∧ q.wdata.length = q.len.toNat ∧ q.len.toNat ≠ 0 ∧
      q.addr.toNat + q.len.toNat ≤ s.cfg.chipSize ∧
      WriteScript.Good s.cfg (chunkPieces s.cfg q.addr.toNat q.wdata) ([c] ++ [c]) := by
  refine ⟨by decide +kernel, rfl, rfl, rfl, by decide +kernel, by decide +kernel, ?_⟩
  have h : chunkPieces cfg 0x0FFF [0x11, 0x22] = [(0x0FFF, [0x11]), (0x1000, [0x22])] := by decide +kernel
  show WriteScript.Good cfg (chunkPieces cfg 0x0FFF [0x11, 0x22]) _
  rw [h]
  refine .cons ?_ (.cons ?_ .nil) <;>
  · unfold CommandScript.Good WaitScript.Good answersFit
    decide +kernel

theorem witness_SplitLaw : 1 ≤ cfg.pageSize ∧ 1 ≤ ([0x11] : List Byte).length := by decide +kernel

/-- Each unit erase, at the last address. -/
theorem witness_UnitErasesEraseTheAlignedUnit :
    ∀ p ∈ unitErases cfg (withAddr 0x7FFFF),
      let c := script [[0, 0, 0, 0]]
      let s := along c
      p ∈ unitErases s.cfg (withAddr 0x7FFFF) ∧ s.phase = .idle ∧ (withAddr 0x7FFFF).addr.toNat < s.cfg.chipSize ∧
        c.Good s.cfg p.2.2.2.2
          [p.2.2.1 :: wireAddr (BitVec.ofNat 32 ((withAddr 0x7FFFF).addr.toNat / p.2.2.2.1 * p.2.2.2.1))] ∧
        s.xfers = c.answers ++ [] ∧ s.millis = c.readings ++ [] := by
  unfold CommandScript.Good WaitScript.Good answersFit
  decide +kernel

theorem witness_ChipEraseSendsOneByte :
    let c := script [[0]]
    let s := along c
    s.phase = .idle ∧ c.Good s.cfg s.cfg.tCeMs [[0xC7]] ∧ s.xfers = c.answers ++ [] ∧ s.millis = c.readings ++ [] := by
  unfold CommandScript.Good WaitScript.Good answersFit
  decide +kernel

theorem witness_AlignDownProperties : 1 ≤ cfg.sectorSize ∧ 0x7FFFF < cfg.chipSize := by decide +kernel

theorem witness_ChunkLenFitsThePage : 1 ≤ cfg.pageSize ∧ 1 ≤ 1 := by decide +kernel

theorem witness_TimeoutNotBefore :
    let s := at0 [.ok [0, 1]] [100, 105]
    ∃ t, s.phase = .idle ∧ exec (.reqRead (withLen 0 1)) s = .next t ∧ t.phase = .idle ∧ t.cause = .timeout :=
  ⟨_, rfl, next_of_goesOn (by decide +kernel), by decide +kernel, by decide +kernel⟩

/-- Each unit erase at the last address: one busy poll, then one at which the budget has just elapsed. -/
theorem witness_EraseTimeoutLeavesTheUnitUnknown :
    ∀ p ∈ unitErases cfg (withAddr 0x7FFFF),
      let b : BusyPoll := ⟨[0, 1], 101⟩
      let e : BusyPoll := ⟨[0, 1], 100 + p.2.2.2.2⟩
      let s := at0 ((ready 90).answers ++ .ok [0] :: .ok [0, 0, 0, 0] :: ([b].map (fun b => .ok b.rx) ++ .ok e.rx :: []))
        ((ready 90).readings ++ 100 :: ([b].map BusyPoll.now ++ e.now :: []))
      s.phase = .idle ∧ (withAddr 0x7FFFF).addr.toNat < s.cfg.chipSize ∧ (ready 90).Good s.cfg.tReadyMs ∧
        (∀ b' ∈ [b], b'.rx.length = 2 ∧ busyFlag (rxAt b'.rx 1) = true ∧
          timedOut 100 p.2.2.2.2 b'.now = false) ∧
        e.rx.length = 2 ∧ busyFlag (rxAt e.rx 1) = true ∧ timedOut 100 p.2.2.2.2 e.now = true := by
  unfold WaitScript.Good
  decide +kernel

/-- Each request with a wait, on operands that pass its checks at their boundary: the first poll, and the second. -/
theorem witness_PollFaultIsTransportFault :
    ∀ busy ∈ ([[], [⟨[0, 3], 104⟩]] : List (List BusyPoll)),
      let q := withData 0x7FFFF [0x11]
      let s := at0 (busy.map (fun b => .ok b.rx) ++ .fault :: []) (100 :: (busy.map BusyPoll.now ++ []))
      s.phase = .idle ∧
        (∀ b ∈ busy, b.rx.length = 2 ∧ busyFlag (rxAt b.rx 1) = true ∧ timedOut 100 s.cfg.tReadyMs b.now = false) ∧
        ∀ i ∈ [Instr.reqRead q, .reqFread q, .reqWpage q, .reqWrite q, .reqEsect q, .reqEb32 q, .reqEb64 q,
          .reqEchip q], specCause s.cfg s.init i = none := by decide +kernel

theorem witness_TransportFaultFollowsAFailedTransfer :
    let s := at0 [.fault] [100]
    ∃ t, s.phase = .idle ∧ exec (.reqEchip (withAddr 0)) s = .next t ∧ t.phase = .idle ∧ t.cause = .transportFault :=
  ⟨_, rfl, next_of_goesOn (by decide +kernel), by decide +kernel, by decide +kernel⟩

theorem one_commands :
    ∀ p ∈ oneCommand cfg (withData 0x7FFFF [0x11]), specCause cfg false p.1 = none ∧ 0 < p.2.2.2.1 := by decide +kernel

/-- Each command on the last byte of the flash, failing at each of its Transfers and in both waits. -/
theorem witness_CommandFailureLeavesItsReachUnknown :
    ∀ p ∈ oneCommand cfg (withData 0x7FFFF [0x11]), ∀ f ∈ failedCommands p.2.2.2.1 p.2.2.1,
      let s := at0 f.answers f.readings
      p ∈ oneCommand s.cfg (withData 0x7FFFF [0x11]) ∧ s.phase = .idle ∧ specCause s.cfg s.init p.1 = none ∧
        f.Fails s.cfg p.2.2.2.1 p.2.2.1 ∧ s.xfers = f.answers ++ [] ∧ s.millis = f.readings ++ [] := by
  intro p hp f hf
  refine ⟨hp, rfl, ?_, ?_, by simp [at0], by simp [at0]⟩
  · exact (one_commands p hp).1
  · exact failedCommands_fail (one_commands p hp).2 f hf

theorem cfg_valid : cfg.Valid := by decide +kernel

theorem budget_pp : 0 < cfg.tPpMs := by decide +kernel

theorem two_bytes_in_range :
    (withData 0x0FFF [0x11, 0x22]).len.toNat ≠ 0 ∧
      (withData 0x0FFF [0x11, 0x22]).addr.toNat + (withData 0x0FFF [0x11, 0x22]).len.toNat ≤ cfg.chipSize := by
  decide +kernel

theorem two_chunks :
    chunkPieces cfg (withData 0x0FFF [0x11, 0x22]).addr.toNat (withData 0x0FFF [0x11, 0x22]).wdata =
      [(0x0FFF, [0x11]), (0x1000, [0x22])] := by decide +kernel

theorem first_chunk_good :
    (script [[0, 0, 0, 0], [0]]).Good cfg cfg.tPpMs (chunkParts cfg 0x0FFF [0x11]) := by
  unfold CommandScript.Good WaitScript.Good answersFit
  decide +kernel

/-- The second of two chunks fails, at each of its Transfers and in both waits. -/
theorem witness_WriteFailureLeavesOnlyItsChunkUnknown :
    ∀ f ∈ failedCommands cfg.tPpMs (chunkParts cfg 0x1000 [0x22]),
      let q := withData 0x0FFF [0x11, 0x22]
      let c := script [[0, 0, 0, 0], [0]]
      let s := at0 ([c].flatMap CommandScript.answers ++ f.answers ++ [])
        ([c].flatMap CommandScript.readings ++ f.readings ++ [])
      s.cfg.Valid ∧ s.phase = .idle ∧ q.bufp = true ∧ q.wdata.length = q.len.toNat ∧ q.len.toNat ≠ 0 ∧
        q.addr.toNat + q.len.toNat ≤ s.cfg.chipSize ∧
        chunkPieces s.cfg q.addr.toNat q.wdata = [(0x0FFF, [0x11])] ++ (0x1000, [0x22]) :: [] ∧
        WriteScript.Good s.cfg [(0x0FFF, [0x11])] [c] ∧
        f.Fails s.cfg s.cfg.tPpMs (chunkParts s.cfg 0x1000 [0x22]) := by
  intro f hf
  exact ⟨cfg_valid, rfl, rfl, rfl, two_bytes_in_range.1, two_bytes_in_range.2, two_chunks, .cons first_chunk_good .nil,
    failedCommands_fail budget_pp f hf⟩

theorem witness_OkOfAProgramFollowsAReadyPoll :
    let s := along (script [[0, 0, 0, 0]])
    ∃ t, isProgramOrErase (.reqEsect (withAddr 0)) = true ∧ s.phase = .idle ∧
      exec (.reqEsect (withAddr 0)) s = .next t ∧ t.phase = .idle ∧ t.cause = .none :=
  ⟨_, rfl, rfl, next_of_goesOn (by decide +kernel), by decide +kernel, by decide +kernel⟩

/-- A run that ends and one that waits. -/
theorem witness_OneResponsePerOperation :
    (at0 [] []).phase = .idle ∧ (out (exec .ce (at0 [] []))).phase ≠ .idle ∧
      (out (exec .ce (at0 [.ok [0]] []))).phase = .idle := by decide +kernel

theorem witness_OnlyIdentificationTouchesTheHandle :
    ∃ t, exec (.reqEchip (withAddr 0)) (along (script [[0]])) = .next t ∧ t.cause = .none ∧
      ∀ q, Instr.reqEchip (withAddr 0) ≠ .reqInit q := 
  ⟨_, next_of_goesOn (by decide +kernel), by decide +kernel, by simp⟩

theorem witness_NoInstructionTouchesTheOutside :
    ∃ t, exec .rdsr { at0 [.ok [0, 3]] [] with inbox := [.frame [0x06]] } = .next t ∧ isRequest .rdsr = false ∧
      t.inbox = [.frame [0x06]] := ⟨_, next_of_goesOn (by decide +kernel), rfl, by decide +kernel⟩

/-- Both clauses: INIT in IDLE, and another request. -/
theorem witness_OnlyInfoReadsInit :
    (∃ t, exec (.reqInit (withAddr 0)) initOk = .next t ∧ initOk.phase = .idle ∧ t.init = true) ∧
      ∃ t, (∀ q, Instr.reqEchip (withAddr 0) ≠ .reqInfo q) ∧ (∀ q, Instr.reqEchip (withAddr 0) ≠ .reqInit q) ∧
        exec (.reqEchip (withAddr 0)) (along (script [[0]])) = .next t ∧ t.cause = .none :=
  ⟨⟨_, next_of_goesOn (by decide +kernel), rfl, by decide +kernel⟩,
    _, by simp, by simp, next_of_goesOn (by decide +kernel), by decide +kernel⟩

/-- A run with two complete windows, and a wire frame's. -/
theorem witness_EveryWindowIsOneFrame :
    let s := at0 [.ok [0, 0], .ok [0, 0, 0, 0], .ok [9]] [100]
    s.cfg.Valid ∧ (Instr.reqRead (withLen 0 1)).wf s.cfg = true ∧ s.phase = .idle ∧
      (out (exec (.reqRead (withLen 0 1)) s)).trace = s.trace ++ added (.reqRead (withLen 0 1)) s ∧
      windows (added (.reqRead (withLen 0 1)) s) = [[0x05, 0xA5], [0x03, 0, 0, 0, 0xA5]] ∧
      (Instr.se 0x123456).wf cfg = true ∧
      windows (added (.se 0x123456) (at0 [.ok [0, 0, 0, 0]] [])) = [[0x20, 0x12, 0x34, 0x56]] := by decide +kernel

/-- A page program of the last byte. -/
theorem witness_EveryWindowAddressIsInRange :
    let i := Instr.reqWpage (withData 0x7FFFF [0x01])
    let s := along (script [[0, 0, 0, 0], [0]])
    s.cfg.Valid ∧ isRequest i = true ∧ i.wf s.cfg = true ∧ s.phase = .idle ∧
      (out (exec i s)).trace = s.trace ++ added i s ∧ [0x02, 0x07, 0xFF, 0xFF, 0x01] ∈ windows (added i s) ∧
      decodeFrame [0x02, 0x07, 0xFF, 0xFF, 0x01] = .ok (.pp 0x07FFFF [0x01]) :=
  ⟨by decide +kernel, rfl, by decide +kernel, rfl, by decide +kernel, by decide +kernel, rfl⟩

/-- A sector erase's windows. -/
theorem witness_WriteEnablePrecedesEveryChange :
    let s := along (script [[0, 0, 0, 0]])
    let i := Instr.reqEsect (withAddr 0x1234)
    isRequest i = true ∧ s.phase = .idle ∧ (out (exec i s)).trace = s.trace ++ added i s ∧
      windows (added i s) = [[0x05, 0xA5], [0x06]] ++ (0x20 :: [0x00, 0x10, 0x00]) :: [[0x05, 0xA5], [0x05, 0xA5]] ∧
      isChangingOpcode 0x20 = true := by decide +kernel

/-- A state in the middle of a window. -/
def inWindow : State :=
  { at0 [.ok [0]] [] with
    phase := .writeEnable, cs := true, pos := .sending [[0x06]], trace := [.select false, .select true] }

theorem witness_StepKeepsTheBusInvariant : Inv inWindow ∧ ∃ t, step inWindow = .next t ∧ t.xfers = [] :=
  ⟨⟨rfl, rfl, rfl, by decide +kernel⟩, _, next_of_goesOn (by decide +kernel), by decide +kernel⟩

/-- A step that ends in FAILED. -/
theorem witness_ChipSelectIsDeassertedOnEveryExit :
    let s := { inWindow with pos := .closing none }
    Inv s ∧ ∃ t, step s = .next t ∧ t.phase = .failed :=
  ⟨⟨rfl, rfl, rfl, by decide +kernel⟩, _, next_of_goesOn (by decide +kernel), by decide +kernel⟩

/-- A split write in SPLIT with two bytes left. -/
def inSplit : State :=
  { at0 [] [] with
    phase := .split, req := { toArgs := withData 0x0FFF [1, 2, 3], op := 4 }, addr := 0x1000, off := 1, rem := 2 }

theorem witness_StepKeepsTheRegisterInvariant :
    inSplit.cfg.Valid ∧ RegInv inSplit ∧ ∃ t, step inSplit = .next t ∧ t.phase = .waitReady ∧ t.len = 2 := by
  refine ⟨by decide +kernel, fun _ =>
    ⟨fun _ => ⟨by decide +kernel, by decide +kernel, by decide +kernel, by decide +kernel⟩, fun h => ?_⟩,
    _, next_of_goesOn (by decide +kernel), by decide +kernel, by decide +kernel⟩
  exact absurd h (by decide +kernel)

/-- A read at the last address, about to be issued. -/
theorem witness_WireAddressIsBelowChipSize :
    let s := { at0 [] [] with
      phase := .commandIssue, req := { toArgs := withLen 0x7FFFF 1, op := 1 }, addr := 0x7FFFF, len := 1 }
    s.cfg.Valid ∧ RegInv s ∧ s.job = none ∧ s.phase = .commandIssue ∧ s.pos = .start ∧
      opOfCode s.req.op ≠ .echip ∧ s.resetLine = false ∧ s.foreignWindow = false := by
  refine ⟨by decide +kernel, fun _ => ⟨fun h => absurd h (by decide +kernel), fun _ => ?_⟩, rfl, rfl, rfl,
    by decide +kernel, rfl, rfl⟩
  exact ⟨rfl, rfl, by decide +kernel, by decide +kernel⟩

theorem witness_EventMachineReachesTheMeaning :
    let s := along (script [[0]])
    s.phase = .idle ∧ ticks 40 (begun (.reqEchip (withAddr 0)) s) = out (exec (.reqEchip (withAddr 0)) s) := by
  decide +kernel

end Sys2Proof.Tests
end

/-! # From acceptance to the meaning

The straight-line meanings follow the phase machine of 41_sequencer.md R164: for every instruction, the procedure
its meaning concludes is simulated (`Sim`) from the state of its acceptance. -/

namespace Sys2Proof.Machine

/-! ## The same operation, later -/

/-- `s'` is a later state of the operation in progress in `s`: the same request, the same wire frame if one is run by
itself, and no more readings of the counter to come. -/
structure Onward (s s' : State) : Prop where
  req : s'.req = s.req
  job : s'.job = s.job
  millis : s'.millis.length ≤ s.millis.length

theorem Onward.trans {s s' s'' : State} (h : Onward s s') (h' : Onward s' s'') : Onward s s'' :=
  ⟨h'.req.trans h.req, h'.job.trans h.job, h'.millis.trans h.millis⟩

theorem onward_enter (s : State) (p : Phase) : Onward s (s.enter p) := ⟨rfl, rfl, le_rfl⟩
theorem onward_enterReady (s : State) : Onward s (enterReady s) := ⟨rfl, rfl, le_rfl⟩
theorem onward_enterComplete (s : State) : Onward s (enterComplete s) := ⟨rfl, rfl, le_rfl⟩

/-- The request of a later state has the same code. -/
theorem Onward.op {s s' : State} (h : Onward s s') : opOfCode s'.req.op = opOfCode s.req.op := by rw [h.req]

/-! ## The phases of an operation follow their procedures -/

/-- What follows the command window does not depend on the place within it. -/
theorem afterCommand_pos (rx : List Byte) (s : State) (p : Pos) :
    afterCommand rx (s.stay p) = afterCommand rx s := by
  cases hj : s.job with
  | some i => simp [afterCommand, hj, State.stay, State.enter, absorbFrame]
  | none => cases hop : opOfCode s.req.op <;> simp [afterCommand, hj, hop, State.stay, State.enter, enterComplete]

/-- A wait phase follows `Wait`; what comes after it has fewer readings left. -/
theorem wait_sim {s : State} (hp : s.pos = .start) (hw : s.phase.isWait = true) {f : Unit → State → Run Unit}
    (hf : ∀ s', Onward s s' → s'.phase = s.phase → s'.millis.length < s.millis.length →
      ∃ v, afterWait s' = some v ∧ Sim v (f () s')) :
    Sim s ((waitLoop s).andThen f) :=
  waitLoop_sim s hp hw f fun _ _ _ _ _ _ hlt => hf _ ⟨rfl, rfl, hlt.le⟩ rfl hlt

/-- A phase of one window with one Transfer follows it. -/
theorem windowPhase_sim {tx : List Byte} {s : State} {f : List Byte → State → Run Unit}
    (hph : s.phase.isFrame = true) (hpos : s.pos = .start) (hparts : phaseParts s = [tx])
    (hf : ∀ rx s', Onward s s' → s'.phase = s.phase →
      ∃ v, absorb rx (s'.stay (.closing (some rx))) = some v ∧ Sim v (f rx s')) :
    Sim s ((frame tx s).andThen f) := by
  have hstay : s = s.stay .start := by rw [← hpos]; rfl
  exact frame_sim .start hstay (.inl ⟨hph, hpos⟩) hparts f fun rx xs _ _ =>
    hf rx { s with cs := false, xfers := xs, trace := s.trace ++ windowEvents [tx] [rx] } ⟨rfl, rfl, le_rfl⟩ rfl

/-- The WRITE_ENABLE phase follows its window. -/
theorem writeEnable_sim {s : State} {f : Unit → State → Run Unit}
    (hf : ∀ s', Onward s s' → Sim (s'.enter .commandIssue) (f () s')) :
    Sim (s.enter .writeEnable) ((writeEnable s).andThen f) := by
  unfold writeEnable
  rw [andThen_assoc]
  exact windowPhase_sim rfl rfl rfl fun rx s' h hph =>
    ⟨s'.enter .commandIssue, by simp [absorb, hph, State.enter, State.stay], hf s' ((onward_enter s _).trans h)⟩

/-- A COMMAND_ISSUE phase of one Transfer follows its window. -/
theorem commandFrame_sim {tx : List Byte} {s : State} {f : List Byte → State → Run Unit}
    (hph : s.phase = .commandIssue) (hpos : s.pos = .start) (hparts : phaseParts s = [tx])
    (hf : ∀ rx s', Onward s s' → ∃ v, afterCommand rx s' = some v ∧ Sim v (f rx s')) :
    Sim s ((frame tx s).andThen f) := by
  refine windowPhase_sim (by rw [hph]; rfl) hpos hparts fun rx s' h hph' => ?_
  obtain ⟨v, hv, hsim⟩ := hf rx s' h
  exact ⟨v, by simpa [absorb, hph', hph, afterCommand_pos] using hv, hsim⟩

/-- A COMMAND_ISSUE phase of two Transfers follows its window. -/
theorem commandFrame2_sim {hdr body : List Byte} {s : State} {f : List Byte → State → Run Unit}
    (hph : s.phase = .commandIssue) (hpos : s.pos = .start) (hparts : phaseParts s = [hdr, body])
    (hf : ∀ rx s', Onward s s' → ∃ v, afterCommand rx s' = some v ∧ Sim v (f rx s')) :
    Sim s ((frame2 hdr body s).andThen f) := by
  have hstay : s = s.stay .start := by rw [← hpos]; rfl
  refine frame2_sim .start hstay (.inl ⟨by rw [hph]; rfl, hpos⟩) hparts f fun r1 rx xs _ _ => ?_
  obtain ⟨v, hv, hsim⟩ := hf rx
    { s with cs := false, xfers := xs, trace := s.trace ++ windowEvents [hdr, body] [r1, rx] } ⟨rfl, rfl, le_rfl⟩
  refine ⟨v, ?_, hsim⟩
  rw [← hv, ← afterCommand_pos _ _ (.closing (some rx))]
  simp [absorb, hph, State.stay]

/-! ## Programs and erases -/

/-- A program or an erase: the operations with a WRITE_ENABLE and a WAIT_COMPLETE (41_sequencer.md R157). -/
def changesArray : Op → Bool
  | .wpage | .write | .esect | .eb32 | .eb64 | .echip => true
  | .init | .read | .fread | .info | .reserved => false

/-- Row 12 of R164: a program or an erase goes on from WAIT_READY to WRITE_ENABLE. -/
theorem afterWait_ready_change {s : State} (hph : s.phase = .waitReady)
    (hop : changesArray (opOfCode s.req.op) = true) :
    afterWait s = some (s.enter .writeEnable) := by
  cases h : opOfCode s.req.op <;> simp [h, changesArray] at hop <;> simp [afterWait, hph, h]

/-- Row 17: from the command window of a program or an erase to WAIT_COMPLETE. -/
theorem afterCommand_change {rx : List Byte} {s : State} (hjob : s.job = none)
    (hop : changesArray (opOfCode s.req.op) = true) : afterCommand rx s = some (enterComplete s) := by
  cases h : opOfCode s.req.op <;> simp [h, changesArray] at hop <;> simp [afterCommand, hjob, h]

/-- Row 20: a program or an erase of one command is done after WAIT_COMPLETE. -/
theorem afterWait_complete_change {s : State} (hph : s.phase = .waitComplete)
    (hop : changesArray (opOfCode s.req.op) = true) (hne : opOfCode s.req.op ≠ .write) :
    afterWait s = some (s.enter .done) := by
  cases h : opOfCode s.req.op <;> simp [h, changesArray] at hop hne <;> simp [afterWait, hph, h]

/-- `window`, made from COMMAND_ISSUE, follows the command window of an operation with code `op`. -/
def FollowsCommand (op : Op) (window : State → Run (List Byte)) : Prop :=
  ∀ (s : State) (f : List Byte → State → Run Unit), opOfCode s.req.op = op → s.job = none →
    (∀ rx s', Onward s s' → ∃ v, afterCommand rx s' = some v ∧ Sim v (f rx s')) →
    Sim (s.enter .commandIssue) ((window s).andThen f)

theorem commandParts_enter (s : State) (p : Phase) : commandParts (s.enter p) = commandParts s := rfl

/-- The Transfers of a request's COMMAND_ISSUE. -/
theorem phaseParts_command {s : State} (hjob : s.job = none) :
    phaseParts (s.enter .commandIssue) = commandParts s := by
  simp only [phaseParts, enter_phase, enter_job, hjob, commandParts_enter]

/-- The command window of an operation whose command is one Transfer. -/
theorem followsCommand_frame {op : Op} {tx : State → List Byte}
    (h : ∀ s, opOfCode s.req.op = op → commandParts s = [tx s]) :
    FollowsCommand op fun s => frame (tx s) (s.enter .commandIssue) := fun s _ hop hjob hf =>
  commandFrame_sim rfl rfl ((phaseParts_command hjob).trans (h s hop)) fun rx s' h' =>
    hf rx s' ((onward_enter s _).trans h')

/-- The command window of an operation whose command is header and body. -/
theorem followsCommand_frame2 {op : Op} {hdr body : State → List Byte}
    (h : ∀ s, opOfCode s.req.op = op → commandParts s = [hdr s, body s]) :
    FollowsCommand op fun s => frame2 (hdr s) (body s) (s.enter .commandIssue) := fun s _ hop hjob hf =>
  commandFrame2_sim rfl rfl ((phaseParts_command hjob).trans (h s hop)) fun rx s' h' =>
    hf rx s' ((onward_enter s _).trans h')

/-- The four phases of a program or an erase (R157), and what comes after them. -/
theorem changePhases_sim {op : Op} {window : State → Run (List Byte)} {s : State} {f : Unit → State → Run Unit}
    (hwin : FollowsCommand op window) (hop : opOfCode s.req.op = op) (hchange : changesArray op = true)
    (hjob : s.job = none)
    (hf : ∀ s', Onward s s' → s'.phase = .waitComplete → s'.millis.length < s.millis.length →
      ∃ v, afterWait s' = some v ∧ Sim v (f () s')) :
    Sim (enterReady s) (((waitReady s).andThen fun _ s1 => (writeEnable s1).andThen fun _ s2 =>
      (window s2).andThen fun _ s3 => waitComplete s3).andThen f) := by
  subst hop
  simp only [andThen_assoc]
  refine wait_sim rfl rfl fun s1 h1 hph1 _ => ⟨_, afterWait_ready_change hph1 (h1.op ▸ hchange), ?_⟩
  refine writeEnable_sim fun s2 h2 => ?_
  have h12 : Onward s s2 := (onward_enterReady s).trans (h1.trans h2)
  refine hwin s2 _ h12.op (h12.job.trans hjob) fun rx s3 h3 => ?_
  have h13 : Onward s s3 := h12.trans h3
  refine ⟨_, afterCommand_change (h13.job.trans hjob) (h13.op ▸ hchange), ?_⟩
  exact wait_sim rfl rfl fun s4 h4 hph4 hlt =>
    hf s4 (h13.trans ((onward_enterComplete s3).trans h4)) hph4 (hlt.trans_le h13.millis)

/-! ## The bodies of the requests -/

/-- From a VALIDATE that found nothing wrong, the phase machine follows `body` for the requests with code `op`. -/
def FollowsBody (op : Op) (body : State → Run Unit) : Prop :=
  ∀ s : State, opOfCode s.req.op = op → s.job = none → validate s = none →
    ∃ v, afterValidate s = some v ∧ Sim v (body s)

/-- A program or an erase of one command, which `prepare` sets the registers for. -/
theorem followsBody_change {op : Op} {prepare : State → State} {window : State → Run (List Byte)}
    (hwin : FollowsCommand op window) (hchange : changesArray op = true) (hne : op ≠ .write)
    (hprep : ∀ s, Onward s (prepare s))
    (hafter : ∀ s, opOfCode s.req.op = op → afterValidate s = some (enterReady (prepare s))) :
    FollowsBody op fun s => (waitReady (prepare s)).andThen fun _ s1 => (writeEnable s1).andThen fun _ s2 =>
      (window s2).andThen fun _ s3 => waitComplete s3 := by
  intro s hop hjob _
  refine ⟨_, hafter s hop, ?_⟩
  dsimp only
  rw [← andThen_pure ((waitReady (prepare s)).andThen _)]
  have h := hprep s
  refine changePhases_sim hwin (h.op.trans hop) hchange (h.job.trans hjob) fun s' h' hph _ => ?_
  have hop' : opOfCode s'.req.op = op := (h.trans h').op.trans hop
  exact ⟨_, afterWait_complete_change hph (hop' ▸ hchange) (hop' ▸ hne), Sim.ok_here s'⟩

theorem followsBody_wpage :
    FollowsBody .wpage fun s => programPhases (fun s' => s'.req.wdata) (loadAddrLen s) :=
  followsBody_change (followsCommand_frame2 fun s h => by simp [commandParts, h]) rfl (by decide)
    (fun _ => ⟨rfl, rfl, le_rfl⟩) fun s h => by simp [afterValidate, h]

theorem followsBody_esect :
    FollowsBody .esect fun s =>
      erasePhases (fun s' => frameSE s'.cfg s'.addr.toNat) (alignTo s.cfg.sectorSize s) :=
  followsBody_change (followsCommand_frame fun s h => by simp [commandParts, h]) rfl (by decide)
    (fun _ => ⟨rfl, rfl, le_rfl⟩) fun s h => by simp [afterValidate, h]

theorem followsBody_eb32 :
    FollowsBody .eb32 fun s =>
      erasePhases (fun s' => frameBE32 s'.cfg s'.addr.toNat) (alignTo s.cfg.block32Size s) :=
  followsBody_change (followsCommand_frame fun s h => by simp [commandParts, h]) rfl (by decide)
    (fun _ => ⟨rfl, rfl, le_rfl⟩) fun s h => by simp [afterValidate, h]

theorem followsBody_eb64 :
    FollowsBody .eb64 fun s =>
      erasePhases (fun s' => frameBE64 s'.cfg s'.addr.toNat) (alignTo s.cfg.block64Size s) :=
  followsBody_change (followsCommand_frame fun s h => by simp [commandParts, h]) rfl (by decide)
    (fun _ => ⟨rfl, rfl, le_rfl⟩) fun s h => by simp [afterValidate, h]

theorem followsBody_echip : FollowsBody .echip (erasePhases fun _ => frameCE) :=
  followsBody_change (followsCommand_frame fun s h => by simp [commandParts, h]) rfl (by decide)
    (fun _ => ⟨rfl, rfl, le_rfl⟩) fun s h => by simp [afterValidate, h]

/-- SPLIT follows the splitter's loop: each round leaves fewer readings of the counter than it found, so a bound above
their number is never used up. -/
theorem splitLoop_sim (bound : Nat) {s : State} (hph : s.phase = .split) (hop : opOfCode s.req.op = .write)
    (hjob : s.job = none) (hbound : s.millis.length < bound) : Sim s (splitLoop bound s) := by
  induction bound generalizing s with
  | zero => omega
  | succ bound ih =>
    have htick : tick s = some (tickSplit s) := by simp [tick, hph]
    unfold splitLoop
    by_cases hrem : s.rem = 0
    · rw [if_pos hrem]
      exact Sim.ok (htick.trans (by simp [tickSplit, hrem]))
    · rw [if_neg hrem]
      refine Sim.head (htick.trans (by rw [tickSplit, if_neg hrem])) ?_
      refine changePhases_sim (s := nextChunk s) (followsCommand_frame2 fun s h => by simp [commandParts, h]) hop rfl
        hjob fun s' h' hph' hlt => ⟨advance s', ?_, ?_⟩
      · simp [afterWait, hph', h'.op, hop]
      · exact ih rfl (h'.op.trans hop) (h'.job.trans hjob) (hlt.trans_le (Nat.le_of_lt_succ hbound))

theorem followsBody_write :
    FollowsBody .write fun s => splitLoop (s.millis.length + 1) (beginSplit s) := fun s hop hjob _ =>
  ⟨_, by simp [afterValidate, hop], splitLoop_sim _ rfl hop hjob (Nat.lt_succ_self _)⟩

/-- READ and FREAD (R158): WAIT_READY, then the command window with receive. -/
theorem readBody_sim {op : Op} {hdr : State → List Byte} {s : State} (hread : op = .read ∨ op = .fread)
    (hparts : ∀ s, opOfCode s.req.op = op → commandParts s = [hdr s, frameRx s.cfg s.len.toNat])
    (hop : opOfCode s.req.op = op) (hjob : s.job = none) : Sim (enterReady (loadAddrLen s)) (readBody hdr s) := by
  refine wait_sim rfl rfl fun s1 h1 hph1 _ => ⟨s1.enter .commandIssue, ?_, ?_⟩
  · rcases hread with rfl | rfl <;> simp [afterWait, hph1, h1.op, hop]
  · refine followsCommand_frame2 hparts s1 _ (h1.op.trans hop) (h1.job.trans hjob) fun rx s2 h2 =>
      ⟨{ s2 with rdata := rx }.enter .done, ?_, Sim.ok_here _⟩
    have h12 : Onward _ s2 := h1.trans h2
    rcases hread with rfl | rfl <;> simp [afterCommand, h12.job, hjob, h12.op, hop]

theorem followsBody_read : FollowsBody .read (readBody fun s => frameREADhdr s.cfg s.addr.toNat) :=
  fun _ hop hjob _ => ⟨_, by simp [afterValidate, hop],
    readBody_sim (.inl rfl) (fun s h => by simp [commandParts, h]) hop hjob⟩

theorem followsBody_fread : FollowsBody .fread (readBody fun s => frameFREADhdr s.cfg s.addr.toNat) :=
  fun _ hop hjob _ => ⟨_, by simp [afterValidate, hop],
    readBody_sim (.inr rfl) (fun s h => by simp [commandParts, h]) hop hjob⟩

/-- The UID_READ phase follows its window; `finish` is what the operation makes of the bytes received. -/
theorem uidRead_sim {finish : List Byte → State → State} {s : State}
    (hph : s.phase = .uidRead) (hpos : s.pos = .start)
    (hafter : ∀ ru s', Onward s s' →
      afterUid ru (s'.stay (.closing (some ru))) = some ((finish ru s').enter .done)) :
    Sim s ((frame (frameRDUID s.cfg) s).andThen fun ru s1 => .ok () (finish ru s1)) :=
  windowPhase_sim (by rw [hph]; rfl) hpos (by simp [phaseParts, hph]) fun ru s' h hph' =>
    ⟨_, by simpa [absorb, hph', hph] using hafter ru s' h, Sim.ok_here _⟩

/-- INIT (R166): ID_READ, then UID_READ if the identity is the expected one. -/
theorem followsBody_init : FollowsBody .init initBody := by
  intro s hop _ _
  refine ⟨beginInit s, by simp [afterValidate, hop], windowPhase_sim rfl rfl rfl fun rx s1 h1 hph1 => ?_⟩
  have habsorb : absorb rx (s1.stay (.closing (some rx))) =
      if idOk s1.cfg rx then some (cacheIdentity rx s1) else some (raise .identityMismatch s1) := by
    simp [absorb, hph1, cacheIdentity, raise, reachNow, State.stay, State.enter]
  rw [habsorb]
  split
  · exact ⟨_, rfl, uidRead_sim rfl rfl fun ru s2 h2 => by
      simp [afterUid, h2.req, h1.req, hop, finishInit, State.stay, State.enter]⟩
  · exact ⟨_, rfl, Sim.err_here _ _⟩

/-- INFO (R190): UID_READ alone. -/
theorem followsBody_info : FollowsBody .info infoBody := fun s hop _ _ =>
  ⟨s.enter .uidRead, by simp [afterValidate, hop], uidRead_sim rfl rfl fun ru s1 h1 => by
    simp [afterUid, h1.req, hop, finishInfo, State.stay, State.enter]⟩

/-- A reserved code never passes its check. -/
theorem followsBody_reserved : FollowsBody .reserved fun s => .err .invalidArgument s := by
  intro s hop _ hv
  simp [validate, checksOf, hop, firstFailure] at hv

/-! ## Requests and wire frames as a whole -/

/-- The meaning of `i` in `s` concludes a procedure which the phase machine follows from the acceptance of `i`. -/
def FollowsMeaning (i : Instr) (s : State) : Prop := ∃ r, exec i s = conclude r ∧ Sim (begun i s) r

/-- A request's meaning: acceptance, VALIDATE, and its body. -/
theorem followsMeaning_serve {op : Op} {body : State → Run Unit} (hbody : FollowsBody op body) {r : Request}
    {i : Instr} {s : State} (hidle : s.phase = .idle) (hexec : exec i s = serve r body s)
    (hbegun : begun i s = accept r s) (hop : opOfCode r.op = op) : FollowsMeaning i s := by
  refine ⟨(checked (accept r s)).andThen fun _ s1 => body s1, by rw [hexec, serve, if_pos hidle], ?_⟩
  have htick : tick (accept r s) = tickValidate (accept r s) := rfl
  rw [hbegun]
  cases hv : validate (accept r s) with
  | some c =>
    simp only [checked, hv, andThen_err]
    exact Sim.err (htick.trans (by simp [tickValidate, hv]))
  | none =>
    obtain ⟨v, hafter, hsim⟩ := hbody (accept r s) hop rfl hv
    simp only [checked, hv, andThen_ok]
    exact Sim.head (htick.trans (by simp [tickValidate, hv, hafter])) hsim

/-- What a wire frame run by itself does after its window. -/
theorem afterCommand_frame {i : Instr} {s s' : State} (h : Onward (acceptFrame i s) s') (rx : List Byte) :
    ∃ v, afterCommand rx s' = some v ∧ Sim v (.ok () (absorbFrame i rx s')) :=
  ⟨_, by simp [afterCommand, h.job], Sim.ok_here _⟩

/-- The Transfers of a wire frame run by itself. -/
theorem phaseParts_acceptFrame {i : Instr} (s : State) (hne : i ≠ .rdid) :
    phaseParts (acceptFrame i s) = wireParts s.cfg i := by
  simp [phaseParts, framePhase_issued hne, issuedParts_issued hne]

/-- A wire frame of one Transfer. -/
theorem followsMeaning_frame {i : Instr} {tx : List Byte} {s : State} (hidle : s.phase = .idle) (hne : i ≠ .rdid)
    (hexec : exec i s = runFrame i (frame tx) s) (hbegun : begun i s = acceptFrame i s)
    (hparts : wireParts s.cfg i = [tx]) : FollowsMeaning i s := by
  refine ⟨_, by rw [hexec, runFrame, if_pos hidle], ?_⟩
  rw [hbegun]
  exact commandFrame_sim (framePhase_issued hne) rfl ((phaseParts_acceptFrame s hne).trans hparts)
    fun rx _ h => afterCommand_frame h rx

/-- A wire frame of two Transfers. -/
theorem followsMeaning_frame2 {i : Instr} {hdr body : List Byte} {s : State} (hidle : s.phase = .idle)
    (hne : i ≠ .rdid) (hexec : exec i s = runFrame i (frame2 hdr body) s) (hbegun : begun i s = acceptFrame i s)
    (hparts : wireParts s.cfg i = [hdr, body]) : FollowsMeaning i s := by
  refine ⟨_, by rw [hexec, runFrame, if_pos hidle], ?_⟩
  rw [hbegun]
  exact commandFrame2_sim (framePhase_issued hne) rfl ((phaseParts_acceptFrame s hne).trans hparts)
    fun rx _ h => afterCommand_frame h rx

/-- Every meaning is the straight-line form of the phase machine (R164). -/
theorem exec_followsMeaning (i : Instr) {s : State} (hidle : s.phase = .idle) : FollowsMeaning i s := by
  cases i with
  | wren => exact followsMeaning_frame hidle (by decide) rfl rfl rfl
  | rdsr => exact followsMeaning_frame hidle (by decide) rfl rfl rfl
  | read a n => exact followsMeaning_frame2 hidle (by simp) rfl rfl rfl
  | fastRead a n => exact followsMeaning_frame2 hidle (by simp) rfl rfl rfl
  | pp a p => exact followsMeaning_frame2 hidle (by simp) rfl rfl rfl
  | se a => exact followsMeaning_frame hidle (by simp) rfl rfl rfl
  | be32 a => exact followsMeaning_frame hidle (by simp) rfl rfl rfl
  | be64 a => exact followsMeaning_frame hidle (by simp) rfl rfl rfl
  | ce => exact followsMeaning_frame hidle (by decide) rfl rfl rfl
  | rdjdid => exact followsMeaning_frame hidle (by decide) rfl rfl rfl
  | rdid => exact ⟨_, by rw [exec, execRdid, buildFrame, if_pos hidle], Sim.ok_here (acceptFrame .rdid s)⟩
  | rduid => exact followsMeaning_frame hidle (by decide) rfl rfl rfl
  | reqInit q => exact followsMeaning_serve followsBody_init hidle rfl rfl rfl
  | reqRead q => exact followsMeaning_serve followsBody_read hidle rfl rfl rfl
  | reqFread q => exact followsMeaning_serve followsBody_fread hidle rfl rfl rfl
  | reqWpage q => exact followsMeaning_serve followsBody_wpage hidle rfl rfl rfl
  | reqWrite q => exact followsMeaning_serve followsBody_write hidle rfl rfl rfl
  | reqEsect q => exact followsMeaning_serve followsBody_esect hidle rfl rfl rfl
  | reqEb32 q => exact followsMeaning_serve followsBody_eb32 hidle rfl rfl rfl
  | reqEb64 q => exact followsMeaning_serve followsBody_eb64 hidle rfl rfl rfl
  | reqEchip q => exact followsMeaning_serve followsBody_echip hidle rfl rfl rfl
  | reqInfo q => exact followsMeaning_serve followsBody_info hidle rfl rfl rfl
  | reservedAB b q => exact followsMeaning_serve followsBody_reserved hidle rfl rfl (opOfCode_reservedAB b)
  | reservedCF c q => exact followsMeaning_serve followsBody_reserved hidle rfl rfl (opOfCode_reservedCF c)

/-- From acceptance, the events of the phase machine come to the state the meaning answers, and there it rests. -/
theorem exec_eq_ticks (i : Instr) {s : State} (hidle : s.phase = .idle) :
    ∃ n t, exec i s = .next t ∧ ticks n (begun i s) = t ∧ tick t = none := by
  obtain ⟨r, hr, hsim⟩ := exec_followsMeaning i hidle
  rw [hr]
  exact hsim.concl

end Sys2Proof.Machine

/-! # The scope of the block

The family of 00_scope.md: one interface event at a time (R8), and the configuration (R11). What one event of the
phase machine can change is said once (`OneEvent`); it carries over to the step, to any number of events, and, since a
meaning is reached by events, to the meanings. -/

namespace Sys2Proof.Machine

/-! ## What one event can change -/

theorem SameOutside.trans {s t u : State} (h : SameOutside s t) (h' : SameOutside t u) : SameOutside s u := by
  obtain ⟨h1, h2, h3, h4, h5⟩ := h
  obtain ⟨h1', h2', h3', h4', h5'⟩ := h'
  exact ⟨h1'.trans h1, h2'.trans h2, h3'.trans h3, h4'.trans h4, h5'.trans h5⟩

theorem SameOutside.cfg {s t : State} (h : SameOutside s t) : t.cfg = s.cfg := h.1

/-- From `s` to `t` at most one event is made, and what is outside the block is as it was. -/
structure OneEvent (s t : State) : Prop where
  outside : SameOutside s t
  trace : ∃ es : List Event, t.trace = s.trace ++ es ∧ es.length ≤ 1

/-- A move that makes no event. -/
theorem OneEvent.quiet {s t : State} (h : SameOutside s t) (ht : t.trace = s.trace) : OneEvent s t :=
  ⟨h, [], by simpa using ht, Nat.zero_le _⟩

/-- A move that makes the event `e`. -/
theorem OneEvent.event {s t : State} (e : Event) (h : SameOutside s t) (ht : t.trace = s.trace ++ [e]) : OneEvent s t :=
  ⟨h, [e], ht, le_rfl⟩

theorem afterValidate_oneEvent {s t : State} (h : afterValidate s = some t) : OneEvent s t := by
  unfold afterValidate at h
  split at h
  case h_1 => cases h; exact .event (.select false) (by simp [SameOutside]) (by simp)
  case h_11 => cases h
  all_goals cases h; exact .quiet (by simp [SameOutside]) (by simp)

theorem tickValidate_oneEvent {s t : State} (h : tickValidate s = some t) : OneEvent s t := by
  unfold tickValidate at h
  split at h
  · cases h; exact .quiet (by simp [SameOutside]) (by simp)
  · exact afterValidate_oneEvent h

theorem tickSplit_oneEvent (s : State) : OneEvent s (tickSplit s) := by
  unfold tickSplit
  split <;> exact .quiet (by simp [SameOutside]) (by simp)

theorem afterWait_sameOutside {s t : State} (h : afterWait s = some t) : SameOutside s t := by
  unfold afterWait at h
  split at h <;> cases h <;> simp [SameOutside]

theorem afterCommand_sameOutside {rx : List Byte} {s t : State} (h : afterCommand rx s = some t) :
    SameOutside s t := by
  unfold afterCommand at h
  split at h
  · cases h; simp [SameOutside]
  · split at h <;> cases h <;> simp [SameOutside]

theorem afterUid_sameOutside {rx : List Byte} {s t : State} (h : afterUid rx s = some t) : SameOutside s t := by
  unfold afterUid at h
  split at h <;> cases h <;> simp [SameOutside]

/-- Absorbing a window's bytes leaves the outside alone. -/
theorem absorb_sameOutside {rx : List Byte} {s t : State} (h : absorb rx s = some t) : SameOutside s t := by
  cases hph : s.phase <;> simp only [absorb, hph] at h
  case waitReady | waitComplete =>
    split at h
    · cases h; simp [SameOutside]
    · simpa [SameOutside] using afterWait_sameOutside h
  case writeEnable => cases h; simp [SameOutside]
  case commandIssue => exact afterCommand_sameOutside h
  case idRead => split at h <;> cases h <;> simp [SameOutside]
  case uidRead => exact afterUid_sameOutside h
  all_goals cases h

theorem tickWindow_oneEvent {s t : State} (h : tickWindow s = some t) : OneEvent s t := by
  unfold tickWindow at h
  split at h
  case h_1 tx _ _ =>
    split at h
    · cases h
    · dsimp only at h
      split at h <;> cases h <;> exact .event (.transfer tx _) (by simp [SameOutside]) rfl
  case h_2 => cases h; exact .event (.select false) (by simp [SameOutside]) (by simp)
  case h_3 rx _ =>
    exact .event (.select false) (.trans (by simp [SameOutside]) (absorb_sameOutside h)) (absorb_quiet h).1
  case h_4 => cases h

theorem openWindow_oneEvent {s t : State} (h : openWindow s = some t) : OneEvent s t := by
  unfold openWindow at h
  split at h <;> cases h
  exact .event (.select true) (by simp [SameOutside]) (by simp)

theorem tickFrame_oneEvent {s t : State} (h : tickFrame s = some t) : OneEvent s t := by
  unfold tickFrame at h
  split at h
  · exact openWindow_oneEvent h
  · exact tickWindow_oneEvent h

theorem tickWait_oneEvent {s t : State} (h : tickWait s = some t) : OneEvent s t := by
  unfold tickWait at h
  split at h
  case h_1 =>
    split at h <;> cases h
    exact .event (.millis _) (by simp [SameOutside]) rfl
  case h_2 => exact openWindow_oneEvent h
  case h_3 =>
    split at h
    · cases h
    · dsimp only at h
      split at h <;> cases h <;> exact .event (.millis _) (by simp [SameOutside]) rfl
  case h_4 => cases h; exact .event (.sleep s.cfg.pollMs) (by simp [SameOutside]) (by simp)
  case h_5 => exact tickWindow_oneEvent h

/-- The phase machine makes at most one event at a time, and leaves the outside alone. -/
theorem tick_oneEvent {s t : State} (h : tick s = some t) : OneEvent s t := by
  cases hph : s.phase <;> simp only [tick, hph] at h
  case idle => cases h
  case validate => exact tickValidate_oneEvent h
  case split => cases h; exact tickSplit_oneEvent s
  case waitReady | waitComplete => exact tickWait_oneEvent h
  case writeEnable | commandIssue | idRead | uidRead => exact tickFrame_oneEvent h
  case done | failed => cases h; exact .event (.respond _) (by simp [SameOutside]) rfl

/-- Acceptance is one event, and leaves the outside alone. -/
theorem acceptOffer_oneEvent (o : Offer) (i : Instr) (s : State) : OneEvent s (acceptOffer o i s) := by
  cases o with
  | request r => exact .event (.accept r) (by simp [acceptOffer, SameOutside]) rfl
  | frame bytes => exact .event (.acceptFrame i) (by simp [acceptOffer, SameOutside]) rfl

/-! ## The meanings, from the events -/

theorem ticks_sameOutside (n : Nat) (s : State) : SameOutside s (ticks n s) :=
  ticks_induct (P := SameOutside s) (fun _ _ h ht => h.trans (tick_oneEvent ht).outside) n s ⟨rfl, rfl, rfl, rfl, rfl⟩

theorem begun_sameOutside (i : Instr) (s : State) : SameOutside s (begun i s) := by
  unfold begun
  split <;> simp [SameOutside]

/-- No instruction touches what is outside the block. -/
theorem exec_sameOutside {i : Instr} {s t : State} (hidle : s.phase = .idle) (h : exec i s = .next t) :
    SameOutside s t := by
  obtain ⟨n, t', hexec, hticks, -⟩ := exec_eq_ticks i hidle
  rw [hexec] at h
  cases h
  exact hticks ▸ (begun_sameOutside i s).trans (ticks_sameOutside n _)

/-! ## Steps along events -/

/-- The acceptance of an offer is that of the instruction it decodes to. -/
theorem acceptOffer_eq_begun {o : Offer} {i : Instr} (s : State) (h : decode o = .ok i) :
    acceptOffer o i s = begun i s := acceptOffer_decoded h

theorem step_of_tick {s t : State} (hreset : s.resetLine = false) (hforeign : s.foreignWindow = false)
    (h : tick s = some t) : step s = .next t := by
  have hbusy : s.phase ≠ .idle := by
    intro hidle
    simp [tick, hidle] at h
  simp [step, hreset, hbusy, stepBusy, hforeign, h]

/-- A run whose first step goes on is the run from there. -/
theorem core_run_succ (k : Nat) {s t : State} (h : step s = .next t) :
    Sys2Proof.core.run (k + 1) s = Sys2Proof.core.run k t := by
  have hcore : Sys2Proof.core.step s = .next t := h
  simp only [Host.Core.run, hcore]

theorem ticks_of_rest (n : Nat) {s : State} (h : tick s = none) : ticks n s = s := by
  cases n with
  | zero => rfl
  | succ n => rw [ticks, h]

/-- With no reset and no foreign window, steps make the events of the phase machine. -/
theorem exists_run_eq_ticks (n : Nat) {s : State} (hreset : s.resetLine = false) (hforeign : s.foreignWindow = false) :
    ∃ k, Sys2Proof.core.run k s = .next (ticks n s) := by
  induction n generalizing s with
  | zero => exact ⟨0, rfl⟩
  | succ n ih =>
    cases h : tick s with
    | none => exact ⟨0, congrArg Host.Outcome.next (ticks_of_rest _ h).symm⟩
    | some u =>
      obtain ⟨-, hresetLine, hforeignWindow, -, -⟩ := (tick_oneEvent h).outside
      obtain ⟨k, hk⟩ := ih (hresetLine.trans hreset) (hforeignWindow.trans hforeign)
      refine ⟨k + 1, ?_⟩
      have hrun : Sys2Proof.core.run (k + 1) s = Sys2Proof.core.run k u :=
        core_run_succ k (step_of_tick hreset hforeign h)
      rw [hrun, hk, ticks, h]

/-! ## The configuration at reset -/

theorem constrained_of_valid (h : Config.unconstrained.Valid) (free least : U32) :
    Config.constrained free least = free := if_pos h

/-- The free times are taken where they meet R11, and else the least ones that do (log 9). -/
theorem initial_valid : Config.initial.Valid := by
  by_cases h : Config.unconstrained.Valid
  · have heq : Config.initial = Config.unconstrained := by
      simp only [Config.initial, constrained_of_valid h, Config.unconstrained]
    exact heq ▸ h
  · simp only [Config.Valid, Config.initial, Config.constrained, if_neg h]
    decide

theorem step_cfg {s t : State} (h : step s = .next t) : t.cfg = s.cfg := by
  rcases step_cases h with ⟨-, rfl⟩ | ⟨hidle, rfl | ⟨o, rest, i, -, -, -, ⟨-, rfl⟩ | ⟨-, hexec⟩⟩⟩ | ⟨-, rfl | htick⟩
  · rfl
  · rfl
  · exact (acceptOffer_oneEvent o i { s with inbox := rest }).outside.cfg
  · exact (exec_sameOutside (s := { s with inbox := rest }) hidle hexec).cfg
  · rfl
  · exact (tick_oneEvent htick).outside.cfg

/-! ## The statements -/

/-- Settles O14, from what a step can do: the reset's `Select(false)`, an acceptance, or an event of the phase
machine. -/
theorem oneEventPerStep : Obligations.OneEventPerStep := by
  intro s t hby h
  rcases step_cases h with ⟨-, rfl⟩ | ⟨-, rfl | ⟨o, rest, i, -, -, -, ⟨-, rfl⟩ | ⟨hby', -⟩⟩⟩ | ⟨-, rfl | htick⟩
  · exact ⟨[.select false], rfl, le_rfl⟩
  · exact ⟨[], by simp, by simp⟩
  · exact (acceptOffer_oneEvent o i { s with inbox := rest }).trace
  · rw [hby] at hby'; cases hby'
  · exact ⟨[], by simp, by simp⟩
  · exact (tick_oneEvent htick).trace

/-- Settles O15: the first step is the acceptance, from which the phase machine comes to what the meaning answers. -/
theorem stepsByEventReachTheMeaning : Obligations.StepsByEventReachTheMeaning := by
  intro s o rest i hreset hidle hinbox hdecode hwf hforeign hby
  have hstep : step s = .next (begun i { s with inbox := rest }) := by
    rw [← acceptOffer_eq_begun _ hdecode]
    simp [step, hreset, hidle, stepIdle, hinbox, hdecode, hwf, hforeign, hby]
  obtain ⟨n, t, hexec, hticks, -⟩ := exec_eq_ticks i (s := { s with inbox := rest }) hidle
  obtain ⟨-, hresetLine, hforeignWindow, -, -⟩ := begun_sameOutside i { s with inbox := rest }
  obtain ⟨k, hk⟩ := exists_run_eq_ticks n (hresetLine.trans hreset) (hforeignWindow.trans hforeign)
  subst hticks
  exact ⟨k + 1, (core_run_succ k hstep).trans (hk.trans hexec.symm)⟩

/-- Settles O16: reset takes the free times only where they meet R11, and neither reset, nor acceptance, nor an event
changes the configuration. -/
theorem configurationStaysValid : Obligations.ConfigurationStaysValid :=
  ⟨initial_valid, fun _ _ => step_cfg⟩

end Sys2Proof.Machine

/-! # The registers of the block

The family of 10_state.md. What one event can do to the registers is said once: the procedures of a window and of a
wait write only what `Within` lists, and every other change is a row of the table of 41_sequencer.md R164 (`Row`). -/

namespace Sys2Proof.Machine

/-! ## What one event can do to the registers -/

/-- What the procedures of a window and of a wait write (R151, R152, R154): CS, T0, SR, the place within the phase, the
host's answers and the trace. Every other field is as it was. -/
inductive Within (s : State) : State → Prop
  | mk (cs : Bool) (t0 : U32) (sr : Byte) (pos : Pos) (xfers : List XferAnswer) (millis : List U32)
      (trace : List Event) :
    Within s { s with
      cs := cs, t0 := t0, sr := sr, pos := pos, xfers := xfers, millis := millis, trace := trace }

/-- A row of the transition table of R164: from a phase to the next. -/
inductive Row (s : State) : State → Prop
  | fail (c : Cause) : Row s (raise c s)
  | validated {t : State} (hphase : s.phase = .validate) (hvalid : validate s = none)
      (h : afterValidate s = some t) : Row s t
  | split (hphase : s.phase = .split) : Row s (tickSplit s)
  | waited {t : State} (h : afterWait s = some t) : Row s t
  | enabled (hphase : s.phase = .writeEnable) : Row s (s.enter .commandIssue)
  | commanded {t : State} (rx : List Byte) (hphase : s.phase = .commandIssue) (h : afterCommand rx s = some t) : Row s t
  | identified (rx : List Byte) (hphase : s.phase = .idRead) : Row s (cacheIdentity rx s)
  | uidRead {t : State} (ru : List Byte) (hphase : s.phase = .uidRead) (h : afterUid ru s = some t) : Row s t
  | respondedOk : Row s (respondOk s)
  | respondedError : Row s (respondError s)

/-- One event: the phase's procedure goes on, and a row of the table may follow. -/
def Move (s t : State) : Prop := ∃ s', Within s s' ∧ (t = s' ∨ Row s' t)

theorem Within.refl (s : State) : Within s s := ⟨s.cs, s.t0, s.sr, s.pos, s.xfers, s.millis, s.trace⟩

theorem Within.trans {s s' s'' : State} (h : Within s s') (h' : Within s' s'') : Within s s'' := by
  cases h; cases h'; constructor

theorem Within.move {s t : State} (h : Within s t) : Move s t := ⟨t, h, .inl rfl⟩

theorem Row.move {s t : State} (h : Row s t) : Move s t := ⟨s, .refl s, .inr h⟩

/-- A move after a part of the procedure is a move. -/
theorem Within.then {s s' t : State} (h : Within s s') (h' : Move s' t) : Move s t := by
  obtain ⟨s'', hwithin, hrow⟩ := h'
  exact ⟨s'', h.trans hwithin, hrow⟩

theorem within_select (s : State) (b : Bool) : Within s (s.select b) := by constructor
theorem within_stay (s : State) (p : Pos) : Within s (s.stay p) := by constructor
theorem within_sr (s : State) (sr : Byte) : Within s { s with sr := sr } := by constructor

theorem absorb_move {rx : List Byte} {s t : State} (h : absorb rx s = some t) : Move s t := by
  cases hphase : s.phase
  case waitReady | waitComplete =>
    rw [absorb_wait rx (by rw [hphase]; rfl)] at h
    refine (within_sr s (rxAt rx 1)).then ?_
    split at h
    · cases h; exact (within_stay _ _).move
    · exact (Row.waited h).move
  all_goals simp only [absorb, hphase] at h
  case writeEnable => cases h; exact (Row.enabled hphase).move
  case commandIssue => exact (Row.commanded rx hphase h).move
  case idRead =>
    split at h <;> cases h
    · exact (Row.identified rx hphase).move
    · exact (Row.fail .identityMismatch).move
  case uidRead => exact (Row.uidRead rx hphase h).move
  all_goals cases h

theorem openWindow_move {s t : State} (h : openWindow s = some t) : Move s t := by
  unfold openWindow at h
  split at h <;> cases h
  exact ((within_select s true).trans (within_stay _ _)).move

theorem tickWindow_move {s t : State} (h : tickWindow s = some t) : Move s t := by
  unfold tickWindow at h
  split at h
  case h_1 =>
    split at h
    · cases h
    · dsimp only at h
      split at h <;> cases h <;> exact Within.move (by constructor)
  case h_2 => cases h; exact (within_select s false).then (Row.fail .transportFault).move
  case h_3 => exact (within_select s false).then (absorb_move h)
  case h_4 => cases h

theorem tickFrame_move {s t : State} (h : tickFrame s = some t) : Move s t := by
  unfold tickFrame at h
  split at h
  · exact openWindow_move h
  · exact tickWindow_move h

theorem tickWait_move {s t : State} (h : tickWait s = some t) : Move s t := by
  unfold tickWait at h
  split at h
  case h_1 =>
    split at h <;> cases h
    exact Within.move (by constructor)
  case h_2 => exact openWindow_move h
  case h_3 =>
    split at h
    · cases h
    case h_2 now rest _ =>
      have hread : Within s ({ s with millis := rest }.emit (.millis now)) := by constructor
      refine hread.then ?_
      dsimp only at h
      split at h <;> cases h
      · exact (Row.fail .timeout).move
      · exact (within_stay _ _).move
  case h_4 => cases h; exact Within.move (by constructor)
  case h_5 => exact tickWindow_move h

/-- Everything one event of the operation in progress can do to the registers. -/
theorem tick_move {s t : State} (h : tick s = some t) : Move s t := by
  cases hphase : s.phase <;> simp only [tick, hphase] at h
  case idle => cases h
  case validate =>
    cases hvalid : validate s with
    | some c => simp only [tickValidate, hvalid] at h; cases h; exact (Row.fail c).move
    | none => simp only [tickValidate, hvalid] at h; exact (Row.validated hphase hvalid h).move
  case split => cases h; exact (Row.split hphase).move
  case waitReady | waitComplete => exact tickWait_move h
  case writeEnable | commandIssue | idRead | uidRead => exact tickFrame_move h
  case done => cases h; exact Row.respondedOk.move
  case failed => cases h; exact Row.respondedError.move

/-- What an instruction begins with and every event keeps holds of the state its meaning answers. -/
theorem exec_induct {P : State → Prop} (htick : ∀ s t, P s → tick s = some t → P t) {i : Instr} {s t : State}
    (hidle : s.phase = .idle) (hbegun : P (begun i s)) (h : exec i s = .next t) : P t := by
  obtain ⟨n, t', hexec, rfl, -⟩ := exec_eq_ticks i hidle
  rw [hexec] at h
  cases h
  exact ticks_induct htick n _ hbegun

/-! ## The register invariant -/

/-- Outside SPLIT and the phases of a command nothing is asked of the registers. -/
theorem regInv_of_not_running {s : State} (hsplit : s.phase ≠ .split) (hrun : s.phase.isRunning = false) : RegInv s :=
  fun _ => ⟨fun h => absurd h hsplit, fun h => by rw [hrun] at h; cases h⟩

/-- From one phase of a command to another the registers stay. -/
theorem RegInv.enter {s : State} {p : Phase} (h : RegInv s) (hs : s.phase.isRunning = true) (hp : p.isRunning = true) :
    RegInv (s.enter p) := by
  intro hjob
  refine ⟨?_, fun _ => (h hjob).2 hs⟩
  rintro rfl
  cases hp

theorem RegInv.enterComplete {s : State} (h : RegInv s) (hs : s.phase.isRunning = true) : RegInv (enterComplete s) :=
  h.enter hs rfl

/-! ## What validation lets through -/

@[simp] theorem firstFailure_nil : firstFailure [] = none := rfl

@[simp] theorem firstFailure_cons_eq_none {failed : Bool} {c : Cause} {rest : List (Bool × Cause)} :
    firstFailure ((failed, c) :: rest) = none ↔ failed = false ∧ firstFailure rest = none := by
  cases failed <;> simp [firstFailure]

theorem firstFailure_append_eq_none {checks rest : List (Bool × Cause)} :
    firstFailure (checks ++ rest) = none ↔ firstFailure checks = none ∧ firstFailure rest = none := by
  induction checks with
  | nil => simp
  | cons check checks ih =>
    obtain ⟨failed, c⟩ := check
    simp [ih, and_assoc]

theorem dataChecks_eq_none {cfg : Config} {q : Request} :
    firstFailure (dataChecks cfg q) = none ↔
      q.bufp = true ∧ 1 ≤ q.len.toNat ∧ q.addr.toNat + q.len.toNat ≤ cfg.chipSize := by
  simp [dataChecks, rangeFits, eq_zero_iff_toNat, Nat.one_le_iff_ne_zero]

theorem pageChecks_eq_none {cfg : Config} {q : Request} :
    firstFailure (pageChecks cfg q) = none ↔
      q.len.toNat ≤ cfg.pageSize ∧ q.addr.toNat % cfg.pageSize + q.len.toNat ≤ cfg.pageSize := by
  simp [pageChecks]

theorem eraseChecks_eq_none {cfg : Config} {q : Request} :
    firstFailure (eraseChecks cfg q) = none ↔ q.addr.toNat < cfg.chipSize := by
  simp [eraseChecks]

theorem alignDown_le (a g : Nat) : alignDown a g ≤ a := Nat.div_mul_le_self a g

/-- The aligned address fits its register. -/
theorem alignTo_addr_toNat (g : Nat) (s : State) : (alignTo g s).addr.toNat = alignDown s.req.addr.toNat g := by
  have hle := alignDown_le s.req.addr.toNat g
  have hlt := s.req.addr.isLt
  simp only [alignTo_addr, BitVec.toNat_ofNat]
  omega

/-- The length of a chunk fits its register. -/
theorem nextChunk_len_toNat (s : State) : (nextChunk s).len.toNat = chunkLen s.cfg s.addr.toNat s.rem.toNat := by
  have hle : chunkLen s.cfg s.addr.toNat s.rem.toNat ≤ s.rem.toNat := Nat.min_le_left _ _
  have hlt := s.rem.isLt
  simp only [nextChunk_len, BitVec.toNat_ofNat]
  omega

/-- Rows 3 to 8 set the registers to the validated or aligned values. -/
theorem afterValidate_regInv {s t : State} (hvalid : validate s = none) (h : afterValidate s = some t) : RegInv t := by
  unfold validate checksOf at hvalid
  cases hop : opOfCode s.req.op <;> simp only [afterValidate, hop] at h hvalid <;> cases h
  case init | info => exact regInv_of_not_running (by simp) rfl
  case read | fread =>
    obtain ⟨-, hlen, hrange⟩ := dataChecks_eq_none.1 hvalid
    simp [RegInv, hop, Phase.isRunning, hlen, hrange]
  case wpage =>
    obtain ⟨hdata, hpage⟩ := firstFailure_append_eq_none.1 hvalid
    obtain ⟨-, hlen, hrange⟩ := dataChecks_eq_none.1 hdata
    obtain ⟨hsize, hfits⟩ := pageChecks_eq_none.1 hpage
    simp [RegInv, hop, Phase.isRunning, pageFits, hlen, hrange, hsize, hfits]
  case write =>
    obtain ⟨-, -, hrange⟩ := dataChecks_eq_none.1 hvalid
    simp [RegInv, hop, Phase.isRunning, CursorInv, hrange]
  case esect | eb32 | eb64 =>
    have hlt := eraseChecks_eq_none.1 hvalid
    refine fun _ => ⟨by simp, fun _ => ?_⟩
    simp only [enterReady_req, alignTo_req, hop]
    exact ⟨alignTo_addr_toNat _ s, hlt⟩
  case echip => simp [RegInv, hop, Phase.isRunning]

/-! ## The cursor of a split write -/

/-- Row 10: a chunk of what remains. -/
theorem tickSplit_regInv {s : State} (hs : RegInv s) (hphase : s.phase = .split) : RegInv (tickSplit s) := by
  unfold tickSplit
  split
  · exact regInv_of_not_running (by simp) rfl
  case isFalse hrem =>
    intro hjob
    obtain ⟨hop, hcursor⟩ := (hs hjob).1 hphase
    have hpos : 1 ≤ s.rem.toNat := Nat.one_le_iff_ne_zero.2 fun h => hrem ((eq_zero_iff_toNat _).2 h)
    refine ⟨by simp, fun _ => ?_⟩
    simp only [enterReady_req, nextChunk_req, hop]
    exact ⟨hcursor, hpos, nextChunk_len_toNat s⟩

/-- Row 19: the cursor moves on by the chunk, which is no longer than what remains. -/
theorem advance_cursorInv {s : State} (hvalid : s.cfg.Valid) (h : ChunkInv s) : CursorInv (advance s) := by
  obtain ⟨⟨hrange, haddr, hrem⟩, hpos, hlen⟩ := h
  obtain ⟨hpage, -, -, -, hchip, -⟩ := hvalid
  obtain ⟨-, hle, -⟩ := chunkLen_bounds s.cfg s.addr.toNat s.rem.toNat hpage hpos
  rw [← hlen] at hle
  have hsub : s.len ≤ s.rem := hle
  refine ⟨hrange, ?_, ?_⟩
  · simp only [advance_addr, advance_req, advance_off, BitVec.toNat_add]
    omega
  · simp only [advance_off, advance_rem, advance_req, BitVec.toNat_add, BitVec.toNat_sub_of_le hsub]
    omega

theorem afterWait_regInv {s t : State} (hvalid : s.cfg.Valid) (hs : RegInv s) (h : afterWait s = some t) :
    RegInv t := by
  unfold afterWait at h
  split at h
  case h_1 | h_2 | h_3 | h_4 | h_5 | h_6 | h_7 | h_8 =>
    cases h
    rename_i hphase _
    exact hs.enter (by rw [hphase]; rfl) rfl
  case h_9 hphase hop =>
    cases h
    intro hjob
    have hrun := (hs hjob).2 (by rw [hphase]; rfl)
    rw [hop] at hrun
    refine ⟨fun _ => ⟨hop, advance_cursorInv hvalid hrun⟩, fun h => by cases h⟩
  case h_15 => cases h
  all_goals cases h; exact regInv_of_not_running (by simp) rfl

theorem afterCommand_regInv {rx : List Byte} {s t : State} (hs : RegInv s) (hphase : s.phase = .commandIssue)
    (h : afterCommand rx s = some t) : RegInv t := by
  have hrun : s.phase.isRunning = true := by rw [hphase]; rfl
  unfold afterCommand at h
  split at h
  · cases h; exact regInv_of_not_running (by simp) rfl
  split at h <;> cases h
  case h_1 | h_2 => exact regInv_of_not_running (by simp) rfl
  all_goals exact hs.enterComplete hrun

theorem Row.regInv {s t : State} (h : Row s t) (hvalid : s.cfg.Valid) (hs : RegInv s) : RegInv t := by
  cases h with
  | validated _ hpass h => exact afterValidate_regInv hpass h
  | split hphase => exact tickSplit_regInv hs hphase
  | waited h => exact afterWait_regInv hvalid hs h
  | enabled hphase => exact hs.enter (by rw [hphase]; rfl) rfl
  | commanded rx hphase h => exact afterCommand_regInv hs hphase h
  | uidRead ru _ h =>
    unfold afterUid at h
    split at h <;> cases h <;> exact regInv_of_not_running (by simp) rfl
  | fail | identified | respondedOk | respondedError => exact regInv_of_not_running (by simp) rfl

/-- An event keeps the register invariant. -/
theorem tick_regInv {s t : State} (hvalid : s.cfg.Valid) (hs : RegInv s) (h : tick s = some t) : RegInv t := by
  obtain ⟨s', hwithin, hend⟩ := tick_move h
  cases hwithin
  rcases hend with rfl | hrow
  · exact hs
  · exact hrow.regInv hvalid hs

/-- Acceptance begins an operation in a phase where nothing is asked of the registers, or with a wire frame. -/
theorem accept_regInv (r : Request) (s : State) : RegInv (accept r s) := regInv_of_not_running (by simp) rfl

theorem acceptFrame_regInv (i : Instr) (s : State) : RegInv (acceptFrame i s) := fun h => by cases h

theorem begun_regInv (i : Instr) (s : State) : RegInv (begun i s) := by
  unfold begun
  split
  · exact accept_regInv _ s
  · exact acceptFrame_regInv i s

theorem exec_regInv {i : Instr} {s t : State} (hvalid : s.cfg.Valid) (hidle : s.phase = .idle)
    (h : exec i s = .next t) : RegInv t := by
  have hcfg : (begun i s).cfg = s.cfg := (begun_sameOutside i s).cfg
  refine (exec_induct (P := fun u => u.cfg.Valid ∧ RegInv u) ?_ hidle ⟨hcfg ▸ hvalid, begun_regInv i s⟩ h).2
  rintro u v ⟨hu, hreg⟩ htick
  exact ⟨(tick_oneEvent htick).outside.cfg ▸ hu, tick_regInv hu hreg htick⟩

/-- Settles O57, from what a step can do: reset and acceptance begin where nothing is asked of the registers, and every
row of R164 keeps the invariant. -/
theorem stepKeepsTheRegisterInvariant : Obligations.StepKeepsTheRegisterInvariant := by
  intro s t hvalid hs h
  rcases step_cases h with
    ⟨-, rfl⟩ | ⟨hidle, rfl | ⟨o, rest, i, -, hdecode, -, ⟨-, rfl⟩ | ⟨-, hexec⟩⟩⟩ | ⟨-, rfl | htick⟩
  · exact regInv_of_not_running (by simp [hardReset, State.reset]) rfl
  · exact hs
  · rw [acceptOffer_eq_begun _ hdecode]; exact begun_regInv i _
  · exact exec_regInv (s := { s with inbox := rest }) hvalid hidle hexec
  · exact hs
  · exact tick_regInv hvalid hs htick

/-! ## The address on the wire -/

/-- The operations whose command carries an address. -/
def sendsAddress : Op → Bool
  | .read | .fread | .wpage | .write | .esect | .eb32 | .eb64 => true
  | .init | .echip | .info | .reserved => false

/-- Where a command may be in progress, only ECHIP has no address; every other command's address is in the chip. -/
theorem RegInv.addr_lt_chipSize {s : State} (hs : RegInv s) (hjob : s.job = none) (hrun : s.phase.isRunning = true)
    (hne : opOfCode s.req.op ≠ .echip) :
    sendsAddress (opOfCode s.req.op) = true ∧ s.addr.toNat < s.cfg.chipSize := by
  have hregs := (hs hjob).2 hrun
  cases hop : opOfCode s.req.op <;> simp only [hop] at hregs
  case echip => exact absurd hop hne
  all_goals refine ⟨rfl, ?_⟩
  case read | fread => obtain ⟨-, -, hlen, hrange⟩ := hregs; omega
  case wpage =>
    obtain ⟨-, -, hpage, hrange⟩ := hregs
    simp only [pageFits, Bool.and_eq_true, decide_eq_true_eq] at hpage
    omega
  case write => obtain ⟨⟨hrange, haddr, hrem⟩, hpos, -⟩ := hregs; omega
  case esect | eb32 | eb64 => obtain ⟨haddr, hlt⟩ := hregs; exact haddr ▸ (alignDown_le _ _).trans_lt hlt

/-- The command window of an operation with an address begins with an opcode and the address (R121). -/
theorem commandParts_header {s : State} (hop : sendsAddress (opOfCode s.req.op) = true) :
    ∃ op k later, commandParts s = addrFrame s.cfg op s.addr.toNat k :: later ∧
      op ∈ ([0x03, 0x0B, 0x02, 0x20, 0x52, 0xD8] : List Byte) := by
  unfold commandParts
  cases h : opOfCode s.req.op <;> simp only [h, sendsAddress, Bool.false_eq_true] at hop <;>
    exact ⟨_, _, _, rfl, by decide⟩

/-- The three bytes of R93 make up a 24-bit address, high byte first. -/
theorem addressBytes_toNat (a : BitVec 24) :
    (a.extractLsb' 16 8).toNat * 65536 + (a.extractLsb' 8 8).toNat * 256 + (a.extractLsb' 0 8).toNat = a.toNat := by
  have hlt := a.isLt
  simp only [BitVec.extractLsb'_toNat, Nat.shiftRight_eq_div_pow]
  omega

/-- With no reset and no foreign window, the step at the start of a request's COMMAND_ISSUE opens its window. -/
theorem step_opensCommand {s : State} {tx : List Byte} {later : List (List Byte)} (hjob : s.job = none)
    (hphase : s.phase = .commandIssue) (hpos : s.pos = .start) (hreset : s.resetLine = false)
    (hforeign : s.foreignWindow = false) (hparts : commandParts s = tx :: later) :
    step s = .next ((s.select true).stay (.sending (tx :: later))) := by
  have hopens : Opens s := .inl ⟨by rw [hphase]; rfl, hpos⟩
  apply step_of_tick hreset hforeign
  simp only [tick_open hopens, openWindow, phaseParts, hphase, hjob, hparts]

/-- Settles O59: the window that opens sends `addrFrame` of ADDR, which the register invariant keeps in the chip. -/
theorem wireAddressIsBelowChipSize : Obligations.WireAddressIsBelowChipSize := by
  intro s hvalid hs hjob hphase hpos hne hreset hforeign
  obtain ⟨hop, hlt⟩ := hs.addr_lt_chipSize hjob (by rw [hphase]; rfl) hne
  obtain ⟨op, k, later, hparts, hmem⟩ := commandParts_header hop
  refine ⟨_, op, _, _, _, fill s.cfg k, later, step_opensCommand hjob hphase hpos hreset hforeign hparts,
    rfl, rfl, hmem, ?_, hlt⟩
  obtain ⟨-, -, -, -, hchip, -⟩ := hvalid
  rw [addressBytes_toNat, BitVec.toNat_ofNat, Nat.mod_eq_of_lt (hlt.trans_le hchip)]

/-! ## The instruction and its acceptance -/

/-- While an operation is in progress an instruction's meaning changes nothing (R150). -/
theorem exec_of_busy {s : State} (i : Instr) (hbusy : s.phase ≠ .idle) : exec i s = .next s := by
  cases i <;> exact if_neg hbusy

/-- What an instruction's own events begin with: the acceptance of its request record, or of itself. -/
theorem begun_cases (i : Instr) (s : State) :
    (∃ r, requestOf s.cfg i = some r ∧ begun i s = accept r s) ∨ begun i s = acceptFrame i s := by
  unfold begun
  cases h : requestOf s.cfg i with
  | some r => exact .inl ⟨r, rfl, rfl⟩
  | none => exact .inr rfl

/-- A request record with INIT's or INFO's code is that of INIT or INFO. -/
theorem identification_of_requestOf {cfg : Config} {i : Instr} {r : Request} (h : requestOf cfg i = some r) :
    (opOfCode r.op = .init → ∃ q, i = .reqInit q) ∧ (opOfCode r.op = .info → ∃ q, i = .reqInfo q) := by
  cases i <;> cases h
  case reqInit q => exact ⟨fun _ => ⟨q, rfl⟩, nofun⟩
  case reqInfo q => exact ⟨nofun, fun _ => ⟨q, rfl⟩⟩
  case reservedAB b q => simp [opOfCode_reservedAB]
  case reservedCF c q => simp [opOfCode_reservedCF]
  all_goals exact ⟨nofun, nofun⟩

/-! ## The handle -/

/-- INIT and the identity triple (R31, R32) are the same. -/
def SameIdentity (s t : State) : Prop :=
  t.init = s.init ∧ t.idMfr = s.idMfr ∧ t.idType = s.idType ∧ t.idCap = s.idCap

theorem SameHandle.trans {s t u : State} (h : SameHandle s t) (h' : SameHandle t u) : SameHandle s u := by
  obtain ⟨h1, h2, h3, h4, h5⟩ := h
  obtain ⟨h1', h2', h3', h4', h5'⟩ := h'
  exact ⟨h1'.trans h1, h2'.trans h2, h3'.trans h3, h4'.trans h4, h5'.trans h5⟩

theorem SameIdentity.trans {s t u : State} (h : SameIdentity s t) (h' : SameIdentity t u) : SameIdentity s u := by
  obtain ⟨h1, h2, h3, h4⟩ := h
  obtain ⟨h1', h2', h3', h4'⟩ := h'
  exact ⟨h1'.trans h1, h2'.trans h2, h3'.trans h3, h4'.trans h4⟩

theorem SameHandle.identity {s t : State} (h : SameHandle s t) : SameIdentity s t := by
  obtain ⟨h1, h2, h3, h4, -⟩ := h
  exact ⟨h1, h2, h3, h4⟩

theorem SameHandle.uid {s t : State} (h : SameHandle s t) : t.uid = s.uid := h.2.2.2.2

/-- A phase from which an operation may come to write the handle. -/
def Phase.identifies : Phase → Bool
  | .validate | .idRead | .uidRead => true
  | .idle | .split | .waitReady | .writeEnable | .commandIssue | .waitComplete | .done | .failed => false

theorem afterWait_handle {s t : State} (h : afterWait s = some t) :
    SameHandle s t ∧ t.phase.identifies = false := by
  unfold afterWait at h
  split at h <;> cases h <;> simp [SameHandle, Phase.identifies]

theorem afterCommand_handle {rx : List Byte} {s t : State} (h : afterCommand rx s = some t) :
    SameHandle s t ∧ t.phase.identifies = false := by
  unfold afterCommand at h
  split at h
  · cases h; simp [SameHandle, Phase.identifies]
  · split at h <;> cases h <;> simp [SameHandle, Phase.identifies]

/-- What a row of the table can do to the handle: nothing, leaving the phases of identification alone, or rows 3, 4, 24,
26 and 27 of R164, in the phases and for the operations they are of. -/
theorem Row.handle_cases {s t : State} (h : Row s t) :
    (SameHandle s t ∧ t.phase.identifies = false) ∨
    (s.phase = .validate ∧ opOfCode s.req.op = .init ∧ t = beginInit s) ∨
    (s.phase = .validate ∧ opOfCode s.req.op = .info ∧ t = s.enter .uidRead) ∨
    (s.phase = .idRead ∧ ∃ rx, t = cacheIdentity rx s) ∨
    (s.phase = .uidRead ∧ opOfCode s.req.op = .init ∧ ∃ ru, t = (finishInit ru s).enter .done) ∨
    (s.phase = .uidRead ∧ opOfCode s.req.op = .info ∧ ∃ ru, t = (finishInfo ru s).enter .done) := by
  cases h with
  | validated hphase _ h =>
    cases hop : opOfCode s.req.op <;> simp only [afterValidate, hop] at h <;> cases h
    case init.refl => exact .inr (.inl ⟨hphase, rfl, rfl⟩)
    case info.refl => exact .inr (.inr (.inl ⟨hphase, rfl, rfl⟩))
    all_goals exact .inl (by simp [SameHandle, Phase.identifies])
  | split => left; unfold tickSplit; split <;> simp [SameHandle, Phase.identifies]
  | waited h => exact .inl (afterWait_handle h)
  | commanded rx _ h => exact .inl (afterCommand_handle h)
  | identified rx hphase => exact .inr (.inr (.inr (.inl ⟨hphase, rx, rfl⟩)))
  | uidRead ru hphase h =>
    cases hop : opOfCode s.req.op <;> simp only [afterUid, hop] at h <;> cases h
    · exact .inr (.inr (.inr (.inr (.inl ⟨hphase, rfl, ru, rfl⟩))))
    · exact .inr (.inr (.inr (.inr (.inr ⟨hphase, rfl, ru, rfl⟩))))
  | fail | enabled | respondedOk | respondedError => exact .inl (by simp [SameHandle, Phase.identifies])

/-- The operation in progress does not come to ID_READ, and is not INIT on its way to UID_READ. -/
def AwayFromInit (s : State) : Prop :=
  s.phase ≠ .idRead ∧ (s.phase.identifies = true → opOfCode s.req.op ≠ .init)

/-- The operation in progress comes neither to ID_READ nor to UID_READ (R166). -/
def AwayFromHandle (s : State) : Prop :=
  s.phase ≠ .idRead ∧ s.phase ≠ .uidRead ∧
  (s.phase = .validate → opOfCode s.req.op ≠ .init ∧ opOfCode s.req.op ≠ .info)

theorem awayFromInit_of_not_identifies {s : State} (h : s.phase.identifies = false) : AwayFromInit s := by
  refine ⟨fun hphase => ?_, fun hid => ?_⟩
  · rw [hphase] at h; cases h
  · rw [h] at hid; cases hid

theorem awayFromHandle_of_not_identifies {s : State} (h : s.phase.identifies = false) : AwayFromHandle s := by
  refine ⟨?_, ?_, ?_⟩ <;> intro hphase <;> rw [hphase] at h <;> cases h

/-- Away from INIT an event leaves INIT and the identity alone, and keeps away. -/
theorem tick_awayFromInit {s t : State} (hs : AwayFromInit s) (h : tick s = some t) :
    AwayFromInit t ∧ SameIdentity s t := by
  obtain ⟨s', hwithin, hend⟩ := tick_move h
  cases hwithin
  obtain ⟨hidRead, hop⟩ := hs
  rcases hend with rfl | hrow
  · exact ⟨⟨hidRead, hop⟩, rfl, rfl, rfl, rfl⟩
  rcases hrow.handle_cases with ⟨hsame, hphase⟩ | ⟨hphase, hinit, -⟩ | ⟨hphase, hinfo, rfl⟩ | ⟨hphase, -⟩ |
    ⟨hphase, hinit, -⟩ | ⟨-, -, ru, rfl⟩
  · exact ⟨awayFromInit_of_not_identifies hphase, hsame.identity⟩
  · exact absurd hinit (hop (by rw [hphase]; rfl))
  · exact ⟨⟨by simp, fun _ => hop (by rw [hphase]; rfl)⟩, rfl, rfl, rfl, rfl⟩
  · exact absurd hphase hidRead
  · exact absurd hinit (hop (by rw [hphase]; rfl))
  · exact ⟨awayFromInit_of_not_identifies rfl, rfl, rfl, rfl, rfl⟩

/-- Away from the handle an event leaves it alone, and keeps away. -/
theorem tick_awayFromHandle {s t : State} (hs : AwayFromHandle s) (h : tick s = some t) :
    AwayFromHandle t ∧ SameHandle s t := by
  obtain ⟨s', hwithin, hend⟩ := tick_move h
  cases hwithin
  obtain ⟨hidRead, huidRead, hop⟩ := hs
  rcases hend with rfl | hrow
  · exact ⟨⟨hidRead, huidRead, hop⟩, rfl, rfl, rfl, rfl, rfl⟩
  rcases hrow.handle_cases with ⟨hsame, hphase⟩ | ⟨hphase, hinit, -⟩ | ⟨hphase, hinfo, -⟩ | ⟨hphase, -⟩ |
    ⟨hphase, -⟩ | ⟨hphase, -⟩
  · exact ⟨awayFromHandle_of_not_identifies hphase, hsame⟩
  · exact absurd hinit (hop hphase).1
  · exact absurd hinfo (hop hphase).2
  · exact absurd hphase hidRead
  · exact absurd hphase huidRead
  · exact absurd hphase huidRead

theorem begun_sameHandle (i : Instr) (s : State) : SameHandle s (begun i s) := by
  rcases begun_cases i s with ⟨r, -, h⟩ | h <;> rw [h] <;> simp [SameHandle]

theorem acceptFrame_identifies (i : Instr) (s : State) : (acceptFrame i s).phase.identifies = false := by
  simp only [acceptFrame_phase, framePhase]
  split <;> rfl

theorem begun_awayFromInit {i : Instr} (s : State) (hinit : ∀ q, i ≠ .reqInit q) : AwayFromInit (begun i s) := by
  rcases begun_cases i s with ⟨r, hr, h⟩ | h <;> rw [h]
  · refine ⟨by simp, fun _ hop => ?_⟩
    obtain ⟨q, hq⟩ := (identification_of_requestOf hr).1 hop
    exact hinit q hq
  · exact awayFromInit_of_not_identifies (acceptFrame_identifies i s)

theorem begun_awayFromHandle {i : Instr} (s : State) (hinit : ∀ q, i ≠ .reqInit q) (hinfo : ∀ q, i ≠ .reqInfo q) :
    AwayFromHandle (begun i s) := by
  rcases begun_cases i s with ⟨r, hr, h⟩ | h <;> rw [h]
  · refine ⟨by simp, by simp, fun _ => ⟨fun hop => ?_, fun hop => ?_⟩⟩
    · obtain ⟨q, hq⟩ := (identification_of_requestOf hr).1 hop
      exact hinit q hq
    · obtain ⟨q, hq⟩ := (identification_of_requestOf hr).2 hop
      exact hinfo q hq
  · exact awayFromHandle_of_not_identifies (acceptFrame_identifies i s)

/-- Only INIT changes INIT and the identity. -/
theorem exec_sameIdentity {i : Instr} {s t : State} (hidle : s.phase = .idle) (hinit : ∀ q, i ≠ .reqInit q)
    (h : exec i s = .next t) : SameIdentity s t := by
  refine (exec_induct (P := fun u => AwayFromInit u ∧ SameIdentity s u) ?_ hidle
    ⟨begun_awayFromInit s hinit, (begun_sameHandle i s).identity⟩ h).2
  rintro u v ⟨haway, hsame⟩ htick
  obtain ⟨haway', hsame'⟩ := tick_awayFromInit haway htick
  exact ⟨haway', hsame.trans hsame'⟩

/-- Only INIT and INFO change the handle. -/
theorem exec_sameHandle {i : Instr} {s t : State} (hidle : s.phase = .idle) (hinit : ∀ q, i ≠ .reqInit q)
    (hinfo : ∀ q, i ≠ .reqInfo q) (h : exec i s = .next t) : SameHandle s t := by
  refine (exec_induct (P := fun u => AwayFromHandle u ∧ SameHandle s u) ?_ hidle
    ⟨begun_awayFromHandle s hinit hinfo, begun_sameHandle i s⟩ h).2
  rintro u v ⟨haway, hsame⟩ htick
  obtain ⟨haway', hsame'⟩ := tick_awayFromHandle haway htick
  exact ⟨haway', hsame.trans hsame'⟩

/-- Settles O48: the rows that write the handle are those of INIT and INFO, and INFO's writes UID alone. -/
theorem onlyIdentificationTouchesTheHandle : Obligations.OnlyIdentificationTouchesTheHandle := by
  intro i s t h hinit
  by_cases hidle : s.phase = .idle
  · obtain ⟨h1, h2, h3, h4⟩ := exec_sameIdentity hidle hinit h
    exact ⟨h1, h2, h3, h4, fun hinfo => (exec_sameHandle hidle hinit hinfo h).uid⟩
  · rw [exec_of_busy i hidle] at h
    cases h
    exact ⟨rfl, rfl, rfl, rfl, fun _ => rfl⟩

/-! ## The registers of a request under a wire frame -/

/-- What a wire frame run by itself leaves of a request's registers (R37 to R42). -/
def SameRequest (s t : State) : Prop :=
  t.req = s.req ∧ SameCursor s t ∧ t.t0 = s.t0 ∧ t.tbudget = s.tbudget

theorem SameRequest.refl (s : State) : SameRequest s s := ⟨rfl, ⟨rfl, rfl, rfl, rfl⟩, rfl, rfl⟩

/-- However the procedure ends, `P` holds of the state it ends in. -/
def Run.All {α : Type} (P : State → Prop) : Run α → Prop
  | .ok _ s => P s
  | .err _ s => P s
  | .wait s => P s

@[simp] theorem Run.all_ok {α : Type} (P : State → Prop) (a : α) (s : State) : (Run.ok a s).All P ↔ P s := .rfl
@[simp] theorem Run.all_err {α : Type} (P : State → Prop) (c : Cause) (s : State) :
    (Run.err c s : Run α).All P ↔ P s := .rfl
@[simp] theorem Run.all_wait {α : Type} (P : State → Prop) (s : State) : (Run.wait s : Run α).All P ↔ P s := .rfl

theorem frame_sameRequest (tx : List Byte) (s : State) : (frame tx s).All (SameRequest s) := by
  rcases frame_cases tx s with ⟨rx, xs, -, -, h⟩ | ⟨x, xs, -, -, h⟩ | ⟨-, h⟩ <;> rw [h] <;> exact SameRequest.refl s

theorem frame2_sameRequest (hdr body : List Byte) (s : State) : (frame2 hdr body s).All (SameRequest s) := by
  rcases frame2_cases hdr body s with ⟨r1, rx, xs, -, -, -, h⟩ | ⟨x, xs, -, -, h⟩ | ⟨r1, x, xs, -, -, -, h⟩ |
    ⟨-, h⟩ | ⟨r1, -, -, h⟩ <;> rw [h] <;> exact SameRequest.refl s

/-- A wire frame run by itself leaves what its window leaves. -/
theorem runFrame_sameRequest {i : Instr} {window : State → Run (List Byte)} {s t : State} (hidle : s.phase = .idle)
    (h : runFrame i window s = .next t) (hwindow : ∀ u, (window u).All (SameRequest u)) : SameRequest s t := by
  replace hwindow := hwindow (acceptFrame i s)
  rw [runFrame, if_pos hidle] at h
  cases hrun : window (acceptFrame i s) <;> rw [hrun] at h hwindow <;> cases h <;>
    simpa [SameRequest, SameCursor] using hwindow

theorem exec_sameRequest {i : Instr} {s t : State} (hidle : s.phase = .idle) (hframe : isRequest i = false)
    (h : exec i s = .next t) : SameRequest s t := by
  cases i with
  | wren | rdsr | se | be32 | be64 | ce | rdjdid | rduid =>
    exact runFrame_sameRequest hidle h (frame_sameRequest _)
  | read | fastRead | pp => exact runFrame_sameRequest hidle h (frame2_sameRequest _ _)
  | rdid =>
    rw [exec, execRdid, buildFrame, if_pos hidle] at h
    cases h
    simp [SameRequest, SameCursor]
  | _ => cases hframe

/-- Settles O49: events leave the outside alone, and a wire frame's window leaves a request's registers alone. -/
theorem noInstructionTouchesTheOutside : Obligations.NoInstructionTouchesTheOutside := by
  intro i s t h
  by_cases hidle : s.phase = .idle
  · exact ⟨exec_sameOutside hidle h, fun hframe => exec_sameRequest hidle hframe h⟩
  · rw [exec_of_busy i hidle] at h
    cases h
    exact ⟨⟨rfl, rfl, rfl, rfl, rfl⟩, fun _ => SameRequest.refl s⟩

/-! ## INIT is read by INFO alone -/

/-- The same state with another INIT. -/
def withInit (b : Bool) (s : State) : State := { s with init := b }

@[simp] theorem withInit_phase (b : Bool) (s : State) : (withInit b s).phase = s.phase := rfl
@[simp] theorem withInit_pos (b : Bool) (s : State) : (withInit b s).pos = s.pos := rfl
@[simp] theorem withInit_req (b : Bool) (s : State) : (withInit b s).req = s.req := rfl
@[simp] theorem withInit_job (b : Bool) (s : State) : (withInit b s).job = s.job := rfl
@[simp] theorem withInit_cfg (b : Bool) (s : State) : (withInit b s).cfg = s.cfg := rfl
@[simp] theorem withInit_xfers (b : Bool) (s : State) : (withInit b s).xfers = s.xfers := rfl
@[simp] theorem withInit_millis (b : Bool) (s : State) : (withInit b s).millis = s.millis := rfl
@[simp] theorem withInit_rem (b : Bool) (s : State) : (withInit b s).rem = s.rem := rfl

theorem openWindow_withInit (b : Bool) (s : State) : openWindow (withInit b s) = (openWindow s).map (withInit b) := by
  have hparts : phaseParts (withInit b s) = phaseParts s := rfl
  unfold openWindow
  rw [hparts]
  split <;> rfl

theorem afterWait_withInit (b : Bool) (s : State) : afterWait (withInit b s) = (afterWait s).map (withInit b) := by
  unfold afterWait
  rw [withInit_phase, withInit_req]
  split <;> rfl

theorem afterCommand_withInit (b : Bool) (rx : List Byte) (s : State) :
    afterCommand rx (withInit b s) = (afterCommand rx s).map (withInit b) := by
  unfold afterCommand
  rw [withInit_job, withInit_req]
  split
  · rfl
  · split <;> rfl

theorem absorb_withInit (b : Bool) (rx : List Byte) {s : State} (hid : s.phase ≠ .idRead) (huid : s.phase ≠ .uidRead) :
    absorb rx (withInit b s) = (absorb rx s).map (withInit b) := by
  cases hphase : s.phase
  case waitReady | waitComplete =>
    have hwait : s.phase.isWait = true := by rw [hphase]; rfl
    rw [absorb_wait rx hwait, absorb_wait (s := withInit b s) rx hwait]
    split
    · rfl
    · exact afterWait_withInit b { s with sr := rxAt rx 1 }
  all_goals simp only [absorb, withInit_phase, hphase]
  case writeEnable => rfl
  case commandIssue => exact afterCommand_withInit b rx s
  case idRead => exact absurd hphase hid
  case uidRead => exact absurd hphase huid
  all_goals rfl

theorem tickWindow_withInit (b : Bool) {s : State} (hid : s.phase ≠ .idRead) (huid : s.phase ≠ .uidRead) :
    tickWindow (withInit b s) = (tickWindow s).map (withInit b) := by
  unfold tickWindow
  rw [withInit_pos, withInit_xfers]
  split
  case h_1 =>
    split
    · rfl
    · dsimp only
      split <;> rfl
  case h_2 => rfl
  case h_3 rx _ => exact absorb_withInit b rx (s := s.select false) hid huid
  case h_4 => rfl

theorem tickFrame_withInit (b : Bool) {s : State} (hid : s.phase ≠ .idRead) (huid : s.phase ≠ .uidRead) :
    tickFrame (withInit b s) = (tickFrame s).map (withInit b) := by
  unfold tickFrame
  rw [withInit_pos]
  split
  · exact openWindow_withInit b s
  · exact tickWindow_withInit b hid huid

theorem tickWait_withInit (b : Bool) {s : State} (hid : s.phase ≠ .idRead) (huid : s.phase ≠ .uidRead) :
    tickWait (withInit b s) = (tickWait s).map (withInit b) := by
  unfold tickWait
  rw [withInit_pos, withInit_millis]
  split
  case h_1 => split <;> rfl
  case h_2 => exact openWindow_withInit b s
  case h_3 =>
    split
    · rfl
    · dsimp only
      rw [apply_ite (Option.map (withInit b))]
      rfl
  case h_4 => rfl
  case h_5 => exact tickWindow_withInit b hid huid

/-- VALIDATE reads INIT for INFO, and writes it for INIT. -/
theorem tickValidate_withInit (b : Bool) {s : State} (hinit : opOfCode s.req.op ≠ .init)
    (hinfo : opOfCode s.req.op ≠ .info) : tickValidate (withInit b s) = (tickValidate s).map (withInit b) := by
  have hvalid : validate (withInit b s) = validate s := by
    cases hop : opOfCode s.req.op <;> simp_all [validate, checksOf, withInit]
  have hafter : afterValidate (withInit b s) = (afterValidate s).map (withInit b) := by
    cases hop : opOfCode s.req.op <;> simp_all [afterValidate, withInit] <;> rfl
  unfold tickValidate
  rw [hvalid, hafter]
  split <;> rfl

/-- Away from the handle an event neither reads nor writes INIT. -/
theorem tick_withInit (b : Bool) {s : State} (hs : AwayFromHandle s) :
    tick (withInit b s) = (tick s).map (withInit b) := by
  obtain ⟨hid, huid, hop⟩ := hs
  cases hphase : s.phase <;> simp only [tick, withInit_phase, hphase]
  case validate => exact tickValidate_withInit b (hop hphase).1 (hop hphase).2
  case split =>
    unfold tickSplit
    rw [withInit_rem]
    split <;> rfl
  case waitReady | waitComplete => exact tickWait_withInit b hid huid
  case writeEnable | commandIssue => exact tickFrame_withInit b hid huid
  case idRead => exact absurd hphase hid
  case uidRead => exact absurd hphase huid
  all_goals rfl

theorem ticks_withInit (b : Bool) (n : Nat) {s : State} (hs : AwayFromHandle s) :
    ticks n (withInit b s) = withInit b (ticks n s) := by
  induction n generalizing s with
  | zero => rfl
  | succ n ih =>
    have htick := tick_withInit b hs
    cases h : tick s with
    | none =>
      rw [h] at htick
      rw [ticks_of_rest _ h, ticks_of_rest _ htick]
    | some u =>
      rw [h] at htick
      simp only [ticks, h, htick, Option.map_some]
      exact ih (tick_awayFromHandle hs h).1

/-- The events of the phase machine come to rest in one state only. -/
theorem ticks_eq_of_rest {n k : Nat} {s : State} (hn : tick (ticks n s) = none) (hk : tick (ticks k s) = none) :
    ticks n s = ticks k s := by
  induction n generalizing k s with
  | zero => exact (ticks_of_rest k hn).symm
  | succ n ih =>
    cases h : tick s with
    | none => rw [ticks_of_rest _ h, ticks_of_rest _ h]
    | some u =>
      cases k with
      | zero => rw [ticks, h] at hk; cases hk
      | succ k =>
        simp only [ticks, h] at hn hk ⊢
        exact ih hn hk

theorem begun_withInit (b : Bool) (i : Instr) (s : State) : begun i (withInit b s) = withInit b (begun i s) := by
  unfold begun
  rw [withInit_cfg]
  split <;> rfl

/-- The instructions but INIT and INFO neither read nor write INIT. -/
theorem exec_withInit (b : Bool) {i : Instr} {s t : State} (hidle : s.phase = .idle) (hinit : ∀ q, i ≠ .reqInit q)
    (hinfo : ∀ q, i ≠ .reqInfo q) (h : exec i s = .next t) : exec i (withInit b s) = .next (withInit b t) := by
  obtain ⟨n, t', hexec, rfl, hrest⟩ := exec_eq_ticks i hidle
  obtain ⟨k, u, hexec', rfl, hrest'⟩ := exec_eq_ticks i (s := withInit b s) hidle
  rw [hexec] at h
  cases h
  have haway : AwayFromHandle (begun i s) := begun_awayFromHandle s hinit hinfo
  have hticks : ticks n (begun i (withInit b s)) = withInit b (ticks n (begun i s)) := by
    rw [begun_withInit, ticks_withInit b n haway]
  have haway' : AwayFromHandle (ticks n (begun i s)) :=
    ticks_induct (fun _ _ hu htick => (tick_awayFromHandle hu htick).1) n _ haway
  have hrest'' : tick (ticks n (begun i (withInit b s))) = none := by
    rw [hticks, tick_withInit b haway', hrest]; rfl
  rw [hexec', ← ticks_eq_of_rest hrest'' hrest', hticks]

/-- INIT clears the flag before anything depends on it (row 3 of R164). -/
theorem execReqInit_withInit (b : Bool) (q : Args) {s : State} (hidle : s.phase = .idle) :
    exec (.reqInit q) (withInit b s) = exec (.reqInit q) s := by
  have hidle' : (withInit b s).phase = .idle := hidle
  simp only [exec, execReqInit, serve, if_pos hidle, if_pos hidle']
  rfl

/-- Settles O50: away from the handle events commute with a change of INIT, and INIT overwrites the flag first. -/
theorem onlyInfoReadsInit : Obligations.OnlyInfoReadsInit := by
  intro i s t b hinfo h
  refine ⟨?_, fun hcase => ?_⟩
  · rintro hidle ⟨q, rfl⟩
    exact (execReqInit_withInit b q hidle).trans h
  · by_cases hidle : s.phase = .idle
    · exact exec_withInit b hidle (hcase.resolve_left (not_not_intro hidle)) hinfo h
    · rw [exec_of_busy i hidle] at h
      cases h
      exact exec_of_busy (s := withInit b s) i hidle

end Sys2Proof.Machine

/-! # The flash and its boundaries

The family of 20_memory.md: the boundary arithmetic of R68 to R70, the poll that an Ok of a program or an erase comes
after (R77), and the addresses that the windows of a request carry (R62). -/

namespace Sys2Proof.Machine

/-! ## Alignment and chunks -/

theorem alignDown_mod (a g : Nat) : alignDown a g % g = 0 := Nat.mul_mod_left _ _

/-- Settles O38: `alignDown` takes off the remainder of the division by `g`. -/
theorem alignDownProperties : Obligations.AlignDownProperties := by
  intro a g size hg
  have hle : alignDown a g ≤ a := alignDown_le a g
  have hrem : a - alignDown a g = a % g := by
    have := Nat.div_add_mod' a g
    unfold alignDown
    omega
  exact ⟨rfl, hle, hrem ▸ Nat.mod_lt a hg, alignDown_mod a g, hle.trans_lt⟩

/-- Settles O39: a chunk is no longer than what remains and what its page has left. -/
theorem chunkLenFitsThePage : Obligations.ChunkLenFitsThePage := by
  intro cfg a rem hpage hrem
  obtain ⟨hpos, hle, hfits⟩ := chunkLen_bounds cfg a rem hpage hrem
  have hsize : chunkLen cfg a rem ≤ cfg.pageSize := by omega
  exact ⟨rfl, hpos, hsize, hfits, hle, by simp [pageFits, hpos, hsize, hfits]⟩

/-! ## How a procedure ends -/

/-- The procedure returns in a state with `P`, or raises a cause, or waits with the operation still in progress. -/
def Run.Ends {α : Type} (P : State → Prop) : Run α → Prop
  | .ok _ s => P s
  | .err c _ => c ≠ .none
  | .wait s => s.phase ≠ .idle

theorem Run.Ends.andThen {α β : Type} {P Q : State → Prop} {r : Run α} {f : α → State → Run β} (h : r.Ends P)
    (hf : ∀ a s, P s → (f a s).Ends Q) : (r.andThen f).Ends Q := by
  cases r with
  | ok a s => exact hf a s h
  | err c s => exact h
  | wait s => exact h

theorem Run.Ends.mono {α : Type} {P Q : State → Prop} {r : Run α} (h : r.Ends P) (hPQ : ∀ s, P s → Q s) : r.Ends Q := by
  cases r with
  | ok a s => exact hPQ s h
  | err c s => exact h
  | wait s => exact h

/-- Only a procedure that returned is answered in IDLE without a cause. -/
theorem Run.Ends.conclude {P : State → Prop} {r : Run Unit} {t : State} (hr : r.Ends P) (h : conclude r = .next t)
    (hidle : t.phase = .idle) (hcause : t.cause = .none) : ∃ s, P s ∧ t = respondOk (s.enter .done) := by
  cases r with
  | ok a s => cases h; exact ⟨s, hr, rfl⟩
  | err c s => cases h; exact absurd hcause hr
  | wait s => cases h; exact absurd hidle hr

theorem frame_ends (tx : List Byte) {s : State} (hs : s.phase ≠ .idle) : (frame tx s).Ends (Within s) := by
  rcases frame_cases tx s with ⟨rx, xs, -, -, h⟩ | ⟨x, xs, -, -, h⟩ | ⟨-, h⟩ <;> rw [h]
  · exact ⟨_, _, _, _, _, _, _⟩
  · exact nofun
  · exact hs

theorem frame2_ends (hdr body : List Byte) {s : State} (hs : s.phase ≠ .idle) :
    (frame2 hdr body s).Ends (Within s) := by
  rcases frame2_cases hdr body s with ⟨r1, rx, xs, -, -, -, h⟩ | ⟨x, xs, -, -, h⟩ | ⟨r1, x, xs, -, -, -, h⟩ |
    ⟨-, h⟩ | ⟨r1, -, -, h⟩ <;> rw [h]
  · exact ⟨_, _, _, _, _, _, _⟩
  · exact nofun
  · exact nofun
  · exact hs
  · exact hs

/-! ## The poll before an Ok -/

/-- The last events are the window of a status poll whose BUSY bit is 0. -/
def EndsReady (s : State) : Prop :=
  ∃ before rx, rx.length = 2 ∧ busyFlag (rxAt rx 1) = false ∧
    s.trace = before ++ windowEvents [frameRDSR s.cfg] [rx]

/-- The polling loop returns right after a poll that found BUSY = 0. -/
theorem pollLoop_ends (ms : List U32) {s : State} (hs : s.phase ≠ .idle) :
    (pollLoop ms s).Ends fun s' => Within s s' ∧ EndsReady s' := by
  induction ms generalizing s with
  | nil =>
    rcases pollLoop_cases [] s with ⟨rx, xs, -, hlen, hbusy, h⟩ | ⟨x, xs, -, -, h⟩ | ⟨-, h⟩ |
      ⟨rx, xs, -, -, -, -, h⟩ | ⟨rx, xs, now, rest, hms, -⟩ | ⟨rx, xs, now, rest, hms, -⟩
    · rw [h]; exact ⟨⟨_, _, _, _, _, _, _⟩, _, rx, hlen, hbusy, rfl⟩
    · rw [h]; exact nofun
    · rw [h]; exact hs
    · rw [h]; exact hs
    · cases hms
    · cases hms
  | cons now rest ih =>
    rcases pollLoop_cases (now :: rest) s with ⟨rx, xs, -, hlen, hbusy, h⟩ | ⟨x, xs, -, -, h⟩ | ⟨-, h⟩ |
      ⟨rx, xs, hms, -⟩ | ⟨rx, xs, now', rest', -, -, -, -, -, h⟩ | ⟨rx, xs, now', rest', hms, -, -, -, -, h⟩
    · rw [h]; exact ⟨⟨_, _, _, _, _, _, _⟩, _, rx, hlen, hbusy, rfl⟩
    · rw [h]; exact nofun
    · rw [h]; exact hs
    · cases hms
    · rw [h]; exact nofun
    · cases hms
      rw [h]
      refine Run.Ends.mono (ih (by exact hs)) ?_
      rintro s' ⟨hwithin, hready⟩
      exact ⟨Within.trans ⟨_, _, _, _, _, _, _⟩ hwithin, hready⟩

theorem waitLoop_ends {s : State} (hs : s.phase ≠ .idle) :
    (waitLoop s).Ends fun s' => Within s s' ∧ EndsReady s' := by
  unfold waitLoop
  cases hm : s.millis with
  | nil => rw [readMillis_nil hm]; exact hs
  | cons v ms =>
    rw [readMillis_cons hm]
    refine Run.Ends.mono (pollLoop_ends _ (by exact hs)) ?_
    rintro s' ⟨hwithin, hready⟩
    exact ⟨Within.trans ⟨_, _, _, _, _, _, _⟩ hwithin, hready⟩

/-- An operation is in progress under `cfg`, and its response latch is empty. -/
structure EmptyLatch (cfg : Config) (s : State) : Prop where
  cfg : s.cfg = cfg
  rdata : s.rdata = []
  info : s.info = []
  phase : s.phase ≠ .idle

theorem Within.emptyLatch {cfg : Config} {s s' : State} (h : Within s s') (hs : EmptyLatch cfg s) : EmptyLatch cfg s' := by
  cases h
  exact ⟨hs.cfg, hs.rdata, hs.info, hs.phase⟩

theorem EmptyLatch.enter {cfg : Config} {s : State} (hs : EmptyLatch cfg s) {p : Phase} (hp : p ≠ .idle) :
    EmptyLatch cfg (s.enter p) := ⟨hs.cfg, hs.rdata, hs.info, hp⟩

/-- How a program or an erase returns: with nothing in the response latch, right after a poll that found BUSY = 0. -/
def Completed (cfg : Config) (s : State) : Prop := EmptyLatch cfg s ∧ EndsReady s

theorem waitReady_ends {cfg : Config} {s : State} (hs : EmptyLatch cfg s) : (waitReady s).Ends (EmptyLatch cfg) :=
  (waitLoop_ends (s := enterReady s) (by simp)).mono fun _ ⟨hwithin, _⟩ =>
    hwithin.emptyLatch ⟨hs.cfg, hs.rdata, hs.info, nofun⟩

theorem writeEnable_ends {cfg : Config} {s : State} (hs : EmptyLatch cfg s) : (writeEnable s).Ends (EmptyLatch cfg) :=
  (frame_ends _ (by simp)).andThen fun _ _ hwithin => hwithin.emptyLatch (hs.enter nofun)

theorem waitComplete_ends {cfg : Config} {s : State} (hs : EmptyLatch cfg s) : (waitComplete s).Ends (Completed cfg) :=
  (waitLoop_ends (s := enterComplete s) (by simp)).mono fun _ ⟨hwithin, hready⟩ =>
    ⟨hwithin.emptyLatch ⟨hs.cfg, hs.rdata, hs.info, nofun⟩, hready⟩

theorem erasePhases_ends {cfg : Config} (tx : State → List Byte) {s : State} (hs : EmptyLatch cfg s) :
    (erasePhases tx s).Ends (Completed cfg) :=
  (waitReady_ends hs).andThen fun _ _ h1 => (writeEnable_ends h1).andThen fun _ _ h2 =>
    (frame_ends _ (by simp)).andThen fun _ _ hwithin => waitComplete_ends (hwithin.emptyLatch (h2.enter nofun))

theorem programPhases_ends {cfg : Config} (payload : State → List Byte) {s : State} (hs : EmptyLatch cfg s) :
    (programPhases payload s).Ends (Completed cfg) :=
  (waitReady_ends hs).andThen fun _ _ h1 => (writeEnable_ends h1).andThen fun _ _ h2 =>
    (frame2_ends _ _ (by simp)).andThen fun _ _ hwithin => waitComplete_ends (hwithin.emptyLatch (h2.enter nofun))

/-- The splitter returns after its last chunk's poll: with nothing left it needs to have been there already. -/
theorem splitLoop_ends {cfg : Config} (bound : Nat) {s : State} (hs : EmptyLatch cfg s)
    (hdone : s.rem = 0 → EndsReady s) : (splitLoop bound s).Ends (Completed cfg) := by
  induction bound generalizing s with
  | zero => exact hs.phase
  | succ bound ih =>
    unfold splitLoop
    split
    case isTrue hrem => exact ⟨hs, hdone hrem⟩
    case isFalse =>
      refine (programPhases_ends chunkData (s := nextChunk s) ⟨hs.cfg, hs.rdata, hs.info, hs.phase⟩).andThen ?_
      rintro _ s1 ⟨h1, hready⟩
      exact ih ⟨h1.cfg, h1.rdata, h1.info, nofun⟩ fun _ => hready

/-! ## Requests -/

theorem firstFailure_mem {checks : List (Bool × Cause)} {c : Cause} (h : firstFailure checks = some c) :
    c ∈ checks.map Prod.snd := by
  induction checks with
  | nil => cases h
  | cons check checks ih =>
    obtain ⟨failed, c'⟩ := check
    unfold firstFailure at h
    split at h
    · cases h; simp
    · exact List.mem_cons_of_mem _ (ih h)

/-- The checks of R180 raise a cause. -/
theorem validate_ne_none {s : State} {c : Cause} (h : validate s = some c) : c ≠ .none := by
  have hmem := firstFailure_mem h
  rintro rfl
  unfold checksOf at hmem
  split at hmem <;> simp [dataChecks, pageChecks, eraseChecks] at hmem

theorem checked_ends (s : State) : (checked s).Ends fun s' => s' = s ∧ validate s = none := by
  unfold checked
  split
  · exact validate_ne_none ‹_›
  · exact ⟨rfl, ‹_›⟩

/-- What holds where a request's body returns holds where its Ok response begins. -/
theorem serve_ok {P : State → Prop} {r : Request} {body : State → Run Unit} {s t : State} (hphase : s.phase = .idle)
    (hbody : validate (accept r s) = none → (body (accept r s)).Ends P) (h : serve r body s = .next t)
    (hidle : t.phase = .idle) (hcause : t.cause = .none) : ∃ s', P s' ∧ t = respondOk (s'.enter .done) := by
  rw [serve, if_pos hphase] at h
  refine Run.Ends.conclude ((checked_ends (accept r s)).andThen ?_) h hidle hcause
  rintro _ s' ⟨rfl, hvalid⟩
  exact hbody hvalid

/-- A WRITE that passes its checks has a byte to program. -/
theorem beginSplit_rem_ne_zero {s : State} (hop : opOfCode s.req.op = .write) (hvalid : validate s = none) :
    (beginSplit s).rem ≠ 0 := by
  simp only [validate, checksOf, hop] at hvalid
  obtain ⟨-, hlen, -⟩ := dataChecks_eq_none.1 hvalid
  intro hrem
  have hzero : s.req.len.toNat = 0 := (eq_zero_iff_toNat _).1 hrem
  omega

/-- A program or an erase that answers Ok completed its last wait. -/
theorem exec_completed {i : Instr} {s t : State} (hi : isProgramOrErase i = true) (hphase : s.phase = .idle)
    (h : exec i s = .next t) (hidle : t.phase = .idle) (hcause : t.cause = .none) :
    ∃ s', Completed s.cfg s' ∧ t = respondOk (s'.enter .done) := by
  cases i with
  | reqWpage q =>
    refine serve_ok hphase (fun _ => ?_) h hidle hcause
    exact programPhases_ends _ ⟨rfl, rfl, rfl, nofun⟩
  | reqWrite q =>
    refine serve_ok hphase (fun hvalid => ?_) h hidle hcause
    exact splitLoop_ends _ ⟨rfl, rfl, rfl, nofun⟩ fun hrem => absurd hrem (beginSplit_rem_ne_zero rfl hvalid)
  | reqEsect q | reqEb32 q | reqEb64 q | reqEchip q =>
    refine serve_ok hphase (fun _ => ?_) h hidle hcause
    exact erasePhases_ends _ ⟨rfl, rfl, rfl, nofun⟩
  | _ => cases hi

/-- Settles O46: where a program or an erase returns, its WAIT_COMPLETE has just returned, and the Ok response is all
that follows. -/
theorem okOfAProgramFollowsAReadyPoll : Obligations.OkOfAProgramFollowsAReadyPoll := by
  intro i s t hi hphase h hidle hcause
  obtain ⟨s', ⟨hs', before, rx, hlen, hbusy, htrace⟩, rfl⟩ := exec_completed hi hphase h hidle hcause
  refine ⟨before, rx, hlen, hbusy, ?_⟩
  rw [hs'.cfg] at htrace
  simp only [respondOk_trace, enter_trace, enter_rdata, enter_info, htrace, hs'.rdata, hs'.info]
  rfl

end Sys2Proof.Machine

/-! # The windows of a run

A run's trace is cut at its windows: every complete one sends the Transfers of the phase it was made in (`phaseParts`),
one after the other. What the phase machine keeps then says what the windows carry. -/

namespace Sys2Proof.Machine

/-! ## A window while it is made -/

/-- The Transfers made and answered so far. -/
def answered (parts rxs : List (List Byte)) : List Event := List.zipWith (fun tx rx => .transfer tx (some rx)) parts rxs

/-- The trace is `past` and what has been made of the window in progress, if one is open. -/
inductive WindowAt (past : List Event) (s : State) : Prop
  | closed (hpos : s.pos.windowOpen = false) (htrace : s.trace = past)
  | sending {sent later rxs : List (List Byte)} {tx : List Byte} (hpos : s.pos = .sending (tx :: later))
      (hparts : phaseParts s = sent ++ tx :: later) (hfit : answersFit sent rxs)
      (htrace : s.trace = past ++ .select true :: answered sent rxs)
  | complete {rxs : List (List Byte)} {rx : List Byte} (hpos : s.pos = .closing (some rx)) (hparts : phaseParts s ≠ [])
      (hfit : answersFit (phaseParts s) rxs) (htrace : s.trace = past ++ .select true :: answered (phaseParts s) rxs)
  | faulted {sent later rxs : List (List Byte)} {tx : List Byte} (hpos : s.pos = .closing none)
      (hparts : phaseParts s = sent ++ tx :: later) (hfit : answersFit sent rxs)
      (htrace : s.trace = past ++ .select true :: (answered sent rxs ++ [.transfer tx none]))

/-- An event that belongs to no window. -/
def Event.isAside : Event → Bool
  | .select b => !b
  | .transfer _ _ => false
  | .accept _ | .acceptFrame _ | .millis _ | .sleep _ | .respond _ => true

/-- What one event adds to the past: nothing, an event beside the windows, or the phase's window as a whole. -/
inductive Adds (s : State) : List Event → Prop
  | nothing : Adds s []
  | aside {e : Event} (h : e.isAside = true) : Adds s [e]
  | window {rxs : List (List Byte)} (hparts : phaseParts s ≠ []) (hfit : answersFit (phaseParts s) rxs) :
      Adds s (windowEvents (phaseParts s) rxs)
  | fault {sent rxs : List (List Byte)} {tx : List Byte} (hfit : answersFit sent rxs) :
      Adds s (.select true :: (answered sent rxs ++ [.transfer tx none, .select false]))

/-- A move with no window open before it or after it, which makes at most one event. -/
def Aside (s t : State) : Prop :=
  t.pos.windowOpen = false ∧ (t.trace = s.trace ∨ ∃ e, Event.isAside e = true ∧ t.trace = s.trace ++ [e])

theorem answered_concat {sent rxs : List (List Byte)} (hfit : answersFit sent rxs) (tx rx : List Byte) :
    answered (sent ++ [tx]) (rxs ++ [rx]) = answered sent rxs ++ [.transfer tx (some rx)] := by
  have hlen : sent.length = rxs.length := by simpa using congrArg List.length hfit
  simp [answered, List.zipWith_append hlen]

theorem answersFit_concat {sent rxs : List (List Byte)} {tx rx : List Byte} (hfit : answersFit sent rxs)
    (hlen : rx.length = tx.length) : answersFit (sent ++ [tx]) (rxs ++ [rx]) := by
  unfold answersFit at hfit ⊢
  simp [hfit, hlen]

/-- Only the phases with a window have Transfers. -/
theorem windowed_of_phaseParts {s : State} (h : phaseParts s ≠ []) : Windowed s := by
  cases hphase : s.phase <;> simp [phaseParts, hphase] at h <;> simp [Windowed, hphase, Phase.isFrame, Phase.isWait]

theorem Adds.of_aside {s t : State} {past : List Event} (h : Aside s t) (htrace : s.trace = past) :
    ∃ es, Adds s es ∧ WindowAt (past ++ es) t := by
  obtain ⟨hpos, hsame | ⟨e, he, hone⟩⟩ := h
  · exact ⟨[], .nothing, .closed hpos (by rw [hsame, htrace, List.append_nil])⟩
  · exact ⟨[e], .aside he, .closed hpos (by rw [hone, htrace])⟩

/-- The phase's window opens. -/
theorem openWindow_windowAt {s t : State} (h : openWindow s = some t) : WindowAt s.trace t := by
  unfold openWindow at h
  split at h
  case h_1 => cases h
  case h_2 tx later hparts =>
    cases h
    exact .sending (sent := []) (rxs := []) rfl hparts rfl rfl

theorem tickValidate_aside {s t : State} (h : tickValidate s = some t) : Aside s t := by
  unfold tickValidate at h
  split at h
  · cases h; exact ⟨rfl, .inl rfl⟩
  · unfold afterValidate at h
    split at h
    case h_1 => cases h; exact ⟨rfl, .inr ⟨.select false, rfl, rfl⟩⟩
    case h_11 => cases h
    all_goals cases h; exact ⟨rfl, .inl rfl⟩

theorem tickSplit_aside (s : State) : Aside s (tickSplit s) := by
  unfold tickSplit
  split <;> exact ⟨rfl, .inl rfl⟩

/-- With no window open, a phase of one window opens it. -/
theorem tickFrame_closed {s t : State} (hpos : s.pos.windowOpen = false) (h : tickFrame s = some t) :
    openWindow s = some t := by
  cases hp : s.pos <;> simp [hp, Pos.windowOpen] at hpos <;> simp [tickFrame, tickWindow, hp] at h
  exact h

/-- With no window open, a wait makes an event beside the windows, or opens a poll's. -/
theorem tickWait_closed {s t : State} (hpos : s.pos.windowOpen = false) (h : tickWait s = some t) :
    Aside s t ∨ openWindow s = some t := by
  cases hp : s.pos <;> simp only [hp, Pos.windowOpen, reduceCtorEq] at hpos <;> simp only [tickWait, hp] at h
  case start =>
    split at h <;> cases h
    exact .inl ⟨rfl, .inr ⟨.millis _, rfl, rfl⟩⟩
  case poll => exact .inr h
  case busy =>
    split at h
    · cases h
    · split at h <;> cases h <;> exact .inl ⟨rfl, .inr ⟨.millis _, rfl, rfl⟩⟩
  case nap => cases h; exact .inl ⟨rfl, .inr ⟨.sleep _, rfl, rfl⟩⟩

/-- With no window open, an event is beside the windows, or opens the phase's window. -/
theorem tick_closed {s t : State} (hpos : s.pos.windowOpen = false) (h : tick s = some t) :
    Aside s t ∨ openWindow s = some t := by
  cases hphase : s.phase <;> simp only [tick, hphase] at h
  case idle => cases h
  case validate => exact .inl (tickValidate_aside h)
  case split => cases h; exact .inl (tickSplit_aside s)
  case waitReady | waitComplete => exact tickWait_closed hpos h
  case writeEnable | commandIssue | idRead | uidRead => exact .inr (tickFrame_closed hpos h)
  case done | failed => cases h; exact .inl ⟨rfl, .inr ⟨.respond _, rfl, rfl⟩⟩

/-- One more Transfer of an open window. -/
theorem tickWindow_sending {past : List Event} {s t : State} {sent later rxs : List (List Byte)} {tx : List Byte}
    (hpos : s.pos = .sending (tx :: later)) (hparts : phaseParts s = sent ++ tx :: later) (hfit : answersFit sent rxs)
    (htrace : s.trace = past ++ .select true :: answered sent rxs) (h : tickWindow s = some t) : WindowAt past t := by
  simp only [tickWindow, hpos] at h
  split at h
  · cases h
  case h_2 x xs _ =>
    cases hview : x.view tx.length with
    | none =>
      simp only [hview] at h
      cases h
      exact .faulted rfl hparts hfit (by simp [htrace])
    | some rx =>
      obtain ⟨-, hlen⟩ := view_eq_some.1 hview
      have hfit' := answersFit_concat hfit hlen
      have htrace' : s.trace ++ [.transfer tx (some rx)] =
          past ++ .select true :: answered (sent ++ [tx]) (rxs ++ [rx]) := by
        rw [answered_concat hfit, htrace, List.append_assoc, List.cons_append]
      cases later with
      | nil =>
        simp only [hview] at h
        cases h
        have hparts' : phaseParts s = sent ++ [tx] := hparts
        rw [← hparts'] at hfit' htrace'
        exact .complete rfl (by change phaseParts s ≠ []; simp [hparts']) hfit' htrace'
      | cons tx2 later2 =>
        simp only [hview] at h
        cases h
        exact .sending rfl (by change phaseParts s = _; simp [hparts]) hfit' htrace'

/-- One event, in or beside a window, adds to the past at most the phase's window or an event beside the windows. -/
theorem tick_windowAt {past : List Event} {s t : State} (hs : WindowAt past s) (h : tick s = some t) :
    ∃ es, Adds s es ∧ WindowAt (past ++ es) t := by
  cases hs with
  | closed hpos htrace =>
    rcases tick_closed hpos h with haside | hopen
    · exact Adds.of_aside haside htrace
    · exact ⟨[], .nothing, by simpa [htrace] using openWindow_windowAt hopen⟩
  | sending hpos hparts hfit htrace =>
    have hwindowed : Windowed s := windowed_of_phaseParts (by simp [hparts])
    rw [tick_window hwindowed (by rw [hpos]; rfl)] at h
    exact ⟨[], .nothing, by simpa using tickWindow_sending hpos hparts hfit htrace h⟩
  | @complete rxs rx hpos hparts hfit htrace =>
    rw [tick_window (windowed_of_phaseParts hparts) (by rw [hpos]; rfl)] at h
    simp only [tickWindow, hpos] at h
    obtain ⟨hsame, -, -, hplace⟩ := absorb_quiet h
    refine ⟨_, .window hparts hfit, .closed ?_ ?_⟩
    · rcases hplace with hplace | ⟨hplace, -⟩ <;> rw [hplace] <;> rfl
    · rw [hsame, select_trace, htrace]
      simp [windowEvents, answered]
  | @faulted sent later rxs tx hpos hparts hfit htrace =>
    have hwindowed : Windowed s := windowed_of_phaseParts (by simp [hparts])
    rw [tick_window hwindowed (by rw [hpos]; rfl)] at h
    simp only [tickWindow, hpos] at h
    cases h
    exact ⟨_, .fault (tx := tx) hfit, .closed rfl (by simp [htrace])⟩

/-! ## The windows of a trace -/

theorem windows_nil : windows [] = [] := rfl

/-- Answered Transfers are collected in the open window. -/
theorem windowsFrom_answered {sent rxs : List (List Byte)} (hfit : answersFit sent rxs) (bytes : List Byte)
    (rest : List Event) :
    windowsFrom (some bytes) (answered sent rxs ++ rest) = windowsFrom (some (bytes ++ sent.flatten)) rest := by
  induction sent generalizing rxs bytes with
  | nil => simp [answered]
  | cons tx sent ih =>
    cases rxs with
    | nil => simp [answersFit] at hfit
    | cons rx rxs =>
      have hfit' : answersFit sent rxs := (List.cons.inj hfit).2
      have hrest := ih hfit' (bytes ++ tx)
      simp only [answered, List.zipWith_cons_cons, List.cons_append, windowsFrom] at hrest ⊢
      rw [hrest, List.flatten_cons, List.append_assoc]

/-- No window is open after these events: what follows has its windows to itself. -/
def Sealed (es : List Event) : Prop := ∀ rest, windows (es ++ rest) = windows es ++ windows rest

theorem sealed_nil : Sealed [] := fun _ => rfl

/-- Events that put the windows `ws` before those of whatever follows. -/
theorem sealed_of_windows_append {es : List Event} {ws : List (List Byte)}
    (h : ∀ rest, windows (es ++ rest) = ws ++ windows rest) : Sealed es ∧ windows es = ws := by
  have hes : windows es = ws := by simpa [windows_nil] using h []
  exact ⟨fun rest => by rw [h, hes], hes⟩

theorem Sealed.append {es es' : List Event} (h : Sealed es) (h' : Sealed es') : Sealed (es ++ es') := by
  intro rest
  rw [List.append_assoc, h, h', h, List.append_assoc]

theorem windows_aside {e : Event} (he : e.isAside = true) : Sealed [e] ∧ windows [e] = [] := by
  refine sealed_of_windows_append fun rest => ?_
  cases e with
  | select b => cases b <;> simp [Event.isAside] at he; simp [windows, windowsFrom]
  | transfer tx rx => cases he
  | _ => simp [windows, windowsFrom]

theorem windows_windowEvents {parts rxs : List (List Byte)} (hfit : answersFit parts rxs) :
    Sealed (windowEvents parts rxs) ∧ windows (windowEvents parts rxs) = [parts.flatten] := by
  refine sealed_of_windows_append fun rest => ?_
  have h := windowsFrom_answered hfit [] (.select false :: rest)
  simp only [answered] at h
  simp [windows, windowEvents, windowsFrom, h]

theorem windows_fault {sent rxs : List (List Byte)} (hfit : answersFit sent rxs) (tx : List Byte) :
    Sealed (.select true :: (answered sent rxs ++ [.transfer tx none, .select false])) ∧
      windows (.select true :: (answered sent rxs ++ [.transfer tx none, .select false])) = [] :=
  sealed_of_windows_append fun rest => by simp [windows, windowsFrom, windowsFrom_answered hfit]

/-- What one event adds has no window but the phase's. -/
theorem Adds.windows {s : State} {es : List Event} (h : Adds s es) :
    Sealed es ∧ ∀ bytes ∈ windows es, phaseParts s ≠ [] ∧ bytes = (phaseParts s).flatten := by
  cases h with
  | nothing => exact ⟨sealed_nil, by simp [windows_nil]⟩
  | aside he =>
    obtain ⟨hsealed, hnone⟩ := windows_aside he
    exact ⟨hsealed, by simp [hnone]⟩
  | window hparts hfit =>
    obtain ⟨hsealed, hone⟩ := windows_windowEvents hfit
    exact ⟨hsealed, by simp [hone, hparts]⟩
  | fault hfit =>
    obtain ⟨hsealed, hnone⟩ := windows_fault hfit _
    exact ⟨hsealed, by simp [hnone]⟩

/-- A window that is still open is none of the complete ones. -/
theorem WindowAt.part {past : List Event} {s : State} (h : WindowAt past s) :
    ∃ part, s.trace = past ++ part ∧ windows part = [] := by
  cases h with
  | closed _ htrace => exact ⟨[], by simp [htrace], rfl⟩
  | sending _ _ hfit htrace =>
    have := windowsFrom_answered hfit [] []
    exact ⟨_, htrace, by simpa [windows, windowsFrom] using this⟩
  | complete _ _ hfit htrace =>
    have := windowsFrom_answered hfit [] []
    exact ⟨_, htrace, by simpa [windows, windowsFrom] using this⟩
  | faulted _ _ hfit htrace => exact ⟨_, htrace, by simp [windows, windowsFrom, windowsFrom_answered hfit]⟩

/-! ## The windows of a meaning -/

/-- `bytes` are the Transfers of a phase that a state with `P` is in. -/
def SentIn (P : State → Prop) (bytes : List Byte) : Prop := ∃ u, P u ∧ phaseParts u ≠ [] ∧ bytes = (phaseParts u).flatten

/-- Along a run that begins after `start`: `P` holds, and so far every complete window was sent in such a state. -/
def WindowsIn (P : State → Prop) (start : List Event) (u : State) : Prop :=
  P u ∧ ∃ past, WindowAt (start ++ past) u ∧ Sealed past ∧ ∀ bytes ∈ windows past, SentIn P bytes

theorem tick_windowsIn {P : State → Prop} (hP : ∀ u v, P u → tick u = some v → P v) {start : List Event} {u v : State}
    (hu : WindowsIn P start u) (h : tick u = some v) : WindowsIn P start v := by
  obtain ⟨hPu, past, hat, hsealed, hsent⟩ := hu
  obtain ⟨es, hadds, hat'⟩ := tick_windowAt hat h
  obtain ⟨hsealed', hwindow⟩ := hadds.windows
  refine ⟨hP u v hPu h, past ++ es, by rwa [← List.append_assoc], hsealed.append hsealed', fun bytes hbytes => ?_⟩
  rw [hsealed es] at hbytes
  rcases List.mem_append.1 hbytes with hold | hnew
  · exact hsent bytes hold
  · exact ⟨u, hPu, hwindow bytes hnew⟩

theorem begun_windowsIn {P : State → Prop} (i : Instr) (s : State) (hP : P (begun i s)) :
    WindowsIn P s.trace (begun i s) := by
  have hone : ∀ {e : Event}, e.isAside = true → Sealed [e] ∧ ∀ bytes ∈ windows [e], SentIn P bytes := by
    intro e he
    obtain ⟨hsealed, hnone⟩ := windows_aside he
    exact ⟨hsealed, by simp [hnone]⟩
  refine ⟨hP, ?_⟩
  rcases begun_cases i s with ⟨r, -, h⟩ | h <;> rw [h]
  · exact ⟨[.accept r], .closed rfl rfl, hone rfl⟩
  · exact ⟨[.acceptFrame i], .closed rfl rfl, hone rfl⟩

/-- Every complete window of a run sends the Transfers of a phase, in a state with what acceptance begins with and
every event keeps. -/
theorem exec_windows {P : State → Prop} (hP : ∀ u v, P u → tick u = some v → P v) {i : Instr} {s t : State}
    {new : List Event} (hidle : s.phase = .idle) (hbegun : P (begun i s)) (h : exec i s = .next t)
    (htrace : t.trace = s.trace ++ new) {bytes : List Byte} (hbytes : bytes ∈ windows new) : SentIn P bytes := by
  obtain ⟨-, past, hat, hsealed, hsent⟩ :=
    exec_induct (P := WindowsIn P s.trace) (fun _ _ => tick_windowsIn hP) hidle (begun_windowsIn i s hbegun) h
  obtain ⟨part, hpart, hnone⟩ := hat.part
  have hnew : new = past ++ part := by
    rw [htrace, List.append_assoc] at hpart
    exact List.append_cancel_left hpart
  rw [hnew, hsealed, hnone, List.append_nil] at hbytes
  exact hsent bytes hbytes

/-! ## Decoding what was sent -/

/-- An address is made again from its three bytes (R93). -/
theorem addrOfBytes_extract (a : BitVec 24) :
    addrOfBytes (a.extractLsb' 16 8) (a.extractLsb' 8 8) (a.extractLsb' 0 8) = a := by
  ext k hk
  simp [addrOfBytes, concat3]
  grind

theorem decodeAddressed_addrBytesOf (f : BitVec 24 → List Byte → Except Reject Instr) (op : Byte) (a : BitVec 24)
    (data : List Byte) : decodeAddressed f op (addrBytesOf a ++ data) = f a data := by
  simp [addrBytesOf, decodeAddressed, addrOfBytes_extract]

theorem decodeErase_addrBytesOf (mk : BitVec 24 → Instr) (op : Byte) (a : BitVec 24) :
    decodeErase mk op (addrBytesOf a) = .ok (mk a) := by
  rw [decodeErase, ← List.append_nil (addrBytesOf a), decodeAddressed_addrBytesOf]
  rfl

theorem addrFrame_toNat (cfg : Config) (op : Byte) (a : BitVec 24) (k : Nat) :
    addrFrame cfg op a.toNat k = op :: (addrBytesOf a ++ fill cfg k) := by
  simp [addrFrame]

/-- The bytes of a wire frame decode to that frame (R91, R93, R97). -/
theorem decodeFrame_encodeFrame (cfg : Config) {i : Instr} (hi : isRequest i = false) :
    decodeFrame (encodeFrame cfg i) = .ok i := by
  cases i with
  | wren | rdsr | ce | rdjdid | rdid | rduid => rfl
  | read a n =>
    simp [encodeFrame, wireParts, frameREADhdr, addrFrame_toNat, decodeFrame, decodeAddressed_addrBytesOf, frameRx, fill]
  | fastRead a n =>
    simp [encodeFrame, wireParts, frameFREADhdr, addrFrame_toNat, decodeFrame, decodeFastRead,
      decodeAddressed_addrBytesOf, frameRx, fill]
  | pp a p =>
    simp [encodeFrame, wireParts, framePPhdr, addrFrame_toNat, decodeFrame, decodeAddressed_addrBytesOf, fill]
  | se a | be32 a | be64 a =>
    simp [encodeFrame, wireParts, frameSE, frameBE32, frameBE64, addrFrame_toNat, decodeFrame,
      decodeErase_addrBytesOf, fill]
  | _ => cases hi

/-! ## The frames of a request -/

/-- A row of the table keeps the request, and begins no wire frame by itself. -/
theorem Row.keepsRequest {s t : State} (h : Row s t) : t.req = s.req ∧ (s.job = none → t.job = none) := by
  cases h with
  | validated _ _ h =>
    unfold afterValidate at h
    split at h <;> cases h <;> exact ⟨rfl, id⟩
  | split => unfold tickSplit; split <;> exact ⟨rfl, id⟩
  | waited h =>
    unfold afterWait at h
    split at h <;> cases h <;> exact ⟨rfl, id⟩
  | commanded rx _ h =>
    unfold afterCommand at h
    split at h
    · cases h; exact ⟨rfl, id⟩
    · split at h <;> cases h <;> exact ⟨rfl, id⟩
  | uidRead ru _ h =>
    unfold afterUid at h
    split at h <;> cases h <;> exact ⟨rfl, id⟩
  | fail | enabled | identified => exact ⟨rfl, id⟩
  | respondedOk | respondedError => exact ⟨rfl, fun _ => rfl⟩

theorem tick_keepsRequest {s t : State} (h : tick s = some t) : t.req = s.req ∧ (s.job = none → t.job = none) := by
  obtain ⟨s', hwithin, hend⟩ := tick_move h
  cases hwithin
  rcases hend with rfl | hrow
  · exact ⟨rfl, id⟩
  · exact hrow.keepsRequest

/-- A request under a valid configuration, with its registers as validated, and for WPAGE no more data than LEN. -/
structure ServesRequest (s : State) : Prop where
  valid : s.cfg.Valid
  regs : RegInv s
  job : s.job = none
  data : opOfCode s.req.op = .wpage → s.req.wdata.length ≤ s.req.len.toNat

theorem tick_servesRequest {s t : State} (hs : ServesRequest s) (h : tick s = some t) : ServesRequest t := by
  obtain ⟨hreq, hjob⟩ := tick_keepsRequest h
  exact ⟨(tick_oneEvent h).outside.cfg ▸ hs.valid, tick_regInv hs.valid hs.regs h, hjob hs.job, hreq ▸ hs.data⟩

/-- R102: with a buffer WDATA has LEN bytes, and without one none. -/
theorem wdata_length_le {q : Args} (h : q.writeWf = true) : q.wdata.length ≤ q.len.toNat := by
  unfold Args.writeWf at h
  split at h
  · exact (beq_iff_eq.1 h).le
  · simp [List.isEmpty_iff.1 h]

/-- A well-formed WPAGE request has no more data than LEN. -/
theorem data_le_of_wf {cfg cfg' : Config} {i : Instr} {r : Request} (hr : requestOf cfg i = some r)
    (hwf : i.wf cfg' = true) (hop : opOfCode r.op = .wpage) : r.wdata.length ≤ r.len.toNat := by
  cases i <;> cases hr
  case reqWpage q => exact wdata_length_le (q := q) hwf
  case reservedAB b q => simp [opOfCode_reservedAB] at hop
  case reservedCF c q => simp [opOfCode_reservedCF] at hop
  all_goals cases hop

theorem begun_servesRequest {i : Instr} {s : State} (hvalid : s.cfg.Valid) (hi : isRequest i = true)
    (hwf : i.wf s.cfg = true) : ServesRequest (begun i s) := by
  have hreq : ∃ r, requestOf s.cfg i = some r := by cases i <;> cases hi <;> exact ⟨_, rfl⟩
  obtain ⟨r, hr⟩ := hreq
  have hbegun : begun i s = accept r s := by simp only [begun, hr]
  rw [hbegun]
  exact ⟨hvalid, accept_regInv r s, rfl, data_le_of_wf hr hwf⟩

/-- The command window of a request sends one wire frame, which stays in range. -/
theorem commandParts_inRange {s : State} (hs : ServesRequest s) (hrun : s.phase.isRunning = true) :
    ∃ j, isRequest j = false ∧ commandParts s = wireParts s.cfg j ∧ frameInRange s.cfg j := by
  by_cases hce : opOfCode s.req.op = .echip
  · exact ⟨.ce, rfl, by simp [commandParts, hce, wireParts], trivial⟩
  obtain ⟨hpage, -, -, -, hchip, -⟩ := hs.valid
  obtain ⟨-, hlt⟩ := hs.regs.addr_lt_chipSize hs.job hrun hce
  have ha : ∃ a : BitVec 24, a.toNat = s.addr.toNat :=
    ⟨BitVec.ofNat 24 s.addr.toNat, by rw [BitVec.toNat_ofNat, Nat.mod_eq_of_lt (hlt.trans_le hchip)]⟩
  obtain ⟨a, ha⟩ := ha
  have hregs := (hs.regs hs.job).2 hrun
  cases hop : opOfCode s.req.op <;> simp only [hop] at hregs
  case echip => exact absurd hop hce
  case read =>
    obtain ⟨-, -, -, hrange⟩ := hregs
    exact ⟨.read a s.len.toNat, rfl, by simp [commandParts, hop, wireParts, ha], by simpa [frameInRange, ha] using hrange⟩
  case fread =>
    obtain ⟨-, -, -, hrange⟩ := hregs
    exact ⟨.fastRead a s.len.toNat, rfl, by simp [commandParts, hop, wireParts, ha],
      by simpa [frameInRange, ha] using hrange⟩
  case wpage =>
    obtain ⟨-, hlen, hfits, hrange⟩ := hregs
    simp only [pageFits, Bool.and_eq_true, decide_eq_true_eq] at hfits
    have hdata := hs.data hop
    rw [← hlen] at hdata
    refine ⟨.pp a s.req.wdata, rfl, by simp [commandParts, hop, wireParts, ha], ?_⟩
    simp only [frameInRange, ha]
    omega
  case write =>
    obtain ⟨⟨hrange, haddr, hrem⟩, hpos, hlen⟩ := hregs
    obtain ⟨-, hle, hfits⟩ := chunkLen_bounds s.cfg s.addr.toNat s.rem.toNat hpage hpos
    have hdata : (chunkData s).length ≤ s.len.toNat := List.length_take_le _ _
    refine ⟨.pp a (chunkData s), rfl, by simp [commandParts, hop, wireParts, ha], ?_⟩
    simp only [frameInRange, ha]
    omega
  case esect =>
    obtain ⟨haddr, -⟩ := hregs
    exact ⟨.se a, rfl, by simp [commandParts, hop, wireParts, ha],
      by simpa only [frameInRange, ha] using ⟨hlt, haddr ▸ alignDown_mod _ _⟩⟩
  case eb32 =>
    obtain ⟨haddr, -⟩ := hregs
    exact ⟨.be32 a, rfl, by simp [commandParts, hop, wireParts, ha],
      by simpa only [frameInRange, ha] using ⟨hlt, haddr ▸ alignDown_mod _ _⟩⟩
  case eb64 =>
    obtain ⟨haddr, -⟩ := hregs
    exact ⟨.be64 a, rfl, by simp [commandParts, hop, wireParts, ha],
      by simpa only [frameInRange, ha] using ⟨hlt, haddr ▸ alignDown_mod _ _⟩⟩

/-- Every window of a request sends one wire frame, which stays in range. -/
theorem phaseParts_inRange {s : State} (hs : ServesRequest s) (hparts : phaseParts s ≠ []) :
    ∃ j, isRequest j = false ∧ phaseParts s = wireParts s.cfg j ∧ frameInRange s.cfg j := by
  cases hphase : s.phase <;> simp only [phaseParts, hphase, hs.job, ne_eq, not_true_eq_false] at hparts ⊢
  case waitReady | waitComplete => exact ⟨.rdsr, rfl, rfl, trivial⟩
  case writeEnable => exact ⟨.wren, rfl, rfl, trivial⟩
  case commandIssue => exact commandParts_inRange hs (by rw [hphase]; rfl)
  case idRead => exact ⟨.rdjdid, rfl, rfl, trivial⟩
  case uidRead => exact ⟨.rduid, rfl, rfl, trivial⟩

/-- Settles O52: every window sends the frame of its phase, which the register invariant keeps in range, and decoding
gives that frame back. -/
theorem everyWindowAddressIsInRange : Obligations.EveryWindowAddressIsInRange := by
  intro i s t new hvalid hi hwf hidle h htrace bytes hbytes j hj
  obtain ⟨u, ⟨hu, hcfg⟩, hparts, rfl⟩ :=
    exec_windows (P := fun u => ServesRequest u ∧ u.cfg = s.cfg)
      (fun u v ⟨hu, hcfg⟩ htick => ⟨tick_servesRequest hu htick, (tick_oneEvent htick).outside.cfg.trans hcfg⟩) hidle
      ⟨begun_servesRequest hvalid hi hwf, (begun_sameOutside i s).cfg⟩ h htrace hbytes
  obtain ⟨k, hk, hframe, hrange⟩ := phaseParts_inRange hu hparts
  rw [hframe] at hj
  have hdecode : decodeFrame (wireParts u.cfg k).flatten = .ok k := decodeFrame_encodeFrame u.cfg hk
  rw [hdecode] at hj
  cases hj
  exact hcfg ▸ hrange

end Sys2Proof.Machine

/-! # Encodings

The family of 30_encoding.md: the encoder and the decoder are inverse on every instruction (R91, R97, R100), what the
decoder and the step refuse (R99, R102), the combined JEDEC id (R96), and the wire frames of one Transfer. -/

namespace Sys2Proof.Machine

/-! ## Requests, from and to their codes -/

theorem decodeRequest_reservedAB (b : BitVec 1) (q : Args) :
    decodeRequest { toArgs := q, op := 0b101#3 ++ b } = .reservedAB b q := by
  have hb : b = 0 ∨ b = 1 := by revert b; decide
  rcases hb with rfl | rfl <;> rfl

theorem decodeRequest_reservedCF (c : BitVec 2) (q : Args) :
    decodeRequest { toArgs := q, op := 0b11#2 ++ c } = .reservedCF c q := by
  have hrow : decodeRequest { toArgs := q, op := 0b11#2 ++ c } = .reservedCF ((0b11#2 ++ c).extractLsb' 0 2) q := by
    have hc : c = 0 ∨ c = 1 ∨ c = 2 ∨ c = 3 := by revert c; decide
    rcases hc with rfl | rfl | rfl | rfl <;> rfl
  rw [hrow, BitVec.extractLsb'_append_eq_right]

theorem encode_wireFrame (cfg : Config) {i : Instr} (hi : isRequest i = false) :
    encode cfg i = .frame (encodeFrame cfg i) := by
  cases i with
  | wren | rdsr | read | fastRead | pp | se | be32 | be64 | ce | rdjdid | rdid | rduid => rfl
  | _ => cases hi

theorem decode_encode_wireFrame (cfg : Config) {i : Instr} (hi : isRequest i = false) :
    decode (encode cfg i) = .ok i := by
  rw [encode_wireFrame cfg hi, decode, decodeFrame_encodeFrame cfg hi]

/-- Settles O1: a wire frame decodes from its bytes, and a request from its code; the free low bits of the reserved
codes come back as they were. -/
theorem decodeOfEncodeIsTheInstruction : Obligations.DecodeOfEncodeIsTheInstruction := by
  intro cfg i
  cases i with
  | wren | rdsr | read | fastRead | pp | se | be32 | be64 | ce | rdjdid | rdid | rduid =>
    exact decode_encode_wireFrame cfg rfl
  | reqInit | reqRead | reqFread | reqWpage | reqWrite | reqEsect | reqEb32 | reqEb64 | reqEchip | reqInfo => rfl
  | reservedAB b q => exact congrArg Except.ok (decodeRequest_reservedAB b q)
  | reservedCF c q => exact congrArg Except.ok (decodeRequest_reservedCF c q)

/-! ## Words of the tables -/

/-- A word laid out as an instruction is encoded stands for that instruction. -/
theorem decodeTableWord_of_encode {cfg : Config} {i : Instr} {nbits w : Nat} (h : offerOfWord nbits w = encode cfg i) :
    decodeTableWord nbits w = some i := by
  rw [decodeTableWord, h, decodeOfEncodeIsTheInstruction cfg i]

/-- Settles O3: each word is laid out as the encoding, with the default filler 0x00, of its instruction. -/
theorem tableWordsDecode : Obligations.TableWordsDecode := by
  have word : ∀ {i : Instr} {nbits w : Nat}, offerOfWord nbits w = encode Config.unconstrained i →
      decodeTableWord nbits w = some i := decodeTableWord_of_encode
  exact ⟨word rfl, word rfl, word rfl, word rfl, word rfl, word rfl, word rfl⟩

/-! ## What is refused -/

/-- Settles O2: the opcode map of R97 has a row for each of the twelve opcodes and no other. -/
theorem unknownOpcodeIsRefused : Obligations.UnknownOpcodeIsRefused := by
  intro op rest hop
  simp only [List.mem_cons, List.not_mem_nil, or_false, not_or] at hop
  simp only [decodeFrame, hop, if_false]

theorem writeWf_iff (q : Args) :
    q.writeWf = true ↔ if q.bufp = true then q.wdata.length = q.len.toNat else q.wdata = [] := by
  unfold Args.writeWf
  split <;> simp

theorem plainWf_iff (q : Args) : q.plainWf = true ↔ q.wdata = [] := List.isEmpty_iff

/-- WPAGE and WRITE carry write data; every other code carries none (R102). -/
theorem decodeRequest_wf (cfg : Config) (r : Request) :
    (decodeRequest r).wf cfg = if r.op = 0x3 ∨ r.op = 0x4 then r.writeWf else r.plainWf := by
  have hencode := encode_decodeRequest cfg r
  generalize decodeRequest r = i at hencode ⊢
  cases i <;> cases hencode
  case reservedAB b q =>
    have hcode : ¬ (0b101#3 ++ b = 0x3#4 ∨ 0b101#3 ++ b = 0x4#4) := by revert b; decide
    exact (if_neg hcode).symm
  case reservedCF c q =>
    have hcode : ¬ (0b11#2 ++ c = 0x3#4 ∨ 0b11#2 ++ c = 0x4#4) := by revert c; decide
    exact (if_neg hcode).symm
  all_goals rfl

/-- What a request record decodes to is well-formed exactly when the record has the form of R102. -/
theorem decodeRequest_wf_iff (cfg : Config) (r : Request) :
    (decodeRequest r).wf cfg = true ↔
      if (r.op = 0x3 ∨ r.op = 0x4) ∧ r.bufp = true then r.wdata.length = r.len.toNat else r.wdata = [] := by
  rw [decodeRequest_wf]
  by_cases hop : r.op = 0x3 ∨ r.op = 0x4
  · simp only [hop, if_true, true_and, writeWf_iff]
  · simp only [hop, if_false, false_and, plainWf_iff]

/-- Settles O11: every request record decodes, and the step refuses the instruction that is not well-formed. -/
theorem malformedRequestIsRefused : Obligations.MalformedRequestIsRefused := by
  intro s r rest hreset hidle hinbox hform
  rw [← decodeRequest_wf_iff s.cfg] at hform
  simp [step, hreset, hidle, stepIdle, hinbox, decode, hform, refusalOf]

/-! ## The combined id -/

/-- Three bytes, shifted and combined, stand one after the other (R13). -/
theorem concat3_eq_append (h m l : Byte) : concat3 h m l = h ++ m ++ l := by
  ext k hk
  simp [concat3]
  grind

theorem concat3_toNat (h m l : Byte) : (concat3 h m l).toNat = h.toNat * 65536 + m.toNat * 256 + l.toNat := by
  have hm := m.isLt
  have hl := l.isLt
  rw [concat3_eq_append, BitVec.toNat_append, BitVec.toNat_append, ← Nat.shiftLeft_add_eq_or_of_lt hm,
    ← Nat.shiftLeft_add_eq_or_of_lt hl, Nat.shiftLeft_eq, Nat.shiftLeft_eq]
  omega

/-- Settles O9: the three bytes are decoded by their places, and no two of them overlap in the combined id. -/
theorem jedecIdIsThreeBytesCombined : Obligations.JedecIdIsThreeBytesCombined :=
  ⟨fun _ m t c => ⟨rfl, concat3_toNat m t c⟩, by decide⟩

/-! ## Wire frames of one Transfer -/

/-- A wire frame run by itself whose window returns: its bytes, its response field and an Ok response, and what the
window itself leaves. -/
theorem runFrame_ok {i : Instr} {window : State → Run (List Byte)} {s : State} {rx : List Byte} {xs : List XferAnswer}
    {es : List Event} (hidle : s.phase = .idle)
    (hwindow : window (acceptFrame i s) = .ok rx { acceptFrame i s with
      cs := false, xfers := xs, trace := (acceptFrame i s).trace ++ es }) :
    runFrame i window s = .next { s with
      cs := false
      cause := .none
      rdata := []
      info := []
      pos := .start
      job := none
      frameRx := responseField rx i
      frameTx := (wireParts s.cfg i).flatten
      sr := if i = .rdsr then rxAt rx 1 else s.sr
      xfers := xs
      trace := s.trace ++ ([.acceptFrame i] ++ es ++ [okResponse [] []]) } := by
  rw [runFrame, if_pos hidle, hwindow]
  simp [acceptFrame, absorbFrame, respondOk, okResponse, State.enter, State.emit, hidle]

/-- The frames of R91 with one Transfer: what the block sends, and which bytes of the answer are the response field. -/
theorem oneWindowFrames_meaning {s : State} {a : BitVec 24} {i : Instr} {tx : List Byte}
    {field : List Byte → List Byte} (h : (i, tx, field) ∈ oneWindowFrames s.cfg a) :
    exec i s = runFrame i (frame tx) s ∧ wireParts s.cfg i = [tx] ∧ ∀ rx, responseField rx i = field rx := by
  have haddr : ∀ op, addrFrame s.cfg op a.toNat 0 = op :: wireAddr24 a := fun op => addrFrame_toNat s.cfg op a 0
  simp only [oneWindowFrames, ← haddr, ← frameRDUID_eq, List.mem_cons, List.not_mem_nil, or_false, Prod.mk.injEq] at h
  rcases h with ⟨rfl, rfl, rfl⟩ | ⟨rfl, rfl, rfl⟩ | ⟨rfl, rfl, rfl⟩ | ⟨rfl, rfl, rfl⟩ | ⟨rfl, rfl, rfl⟩ |
    ⟨rfl, rfl, rfl⟩ | ⟨rfl, rfl, rfl⟩ | ⟨rfl, rfl, rfl⟩ <;>
  exact ⟨rfl, rfl, fun _ => rfl⟩

/-- Settles O20: the window returns what was answered, and the frame's own row of R91 and R92 says the rest. -/
theorem oneWindowFramesComplete : Obligations.OneWindowFramesComplete := by
  intro s a i tx field rx xs hrow hidle hxfers hlen
  obtain ⟨hexec, hparts, hfield⟩ := oneWindowFrames_meaning hrow
  rw [hexec, runFrame_ok hidle (frame_ok hxfers hlen), hparts, hfield, List.flatten_singleton]

end Sys2Proof.Machine

/-! # The command encoder

The family of 40_encoder.md: the address frame by division (R121), the wire frames of two Transfers (R124 to R126), the
frame that is built and not issued (R132), and the response decoders (R134 to R137). -/

namespace Sys2Proof.Machine

/-! ## The address frame -/

/-- A field of a number's low `w` bits is a field of the number: what `w` bits drop lies above it. -/
theorem extractLsb'_ofNat {w lsb n : Nat} (a : Nat) (h : lsb + n ≤ w) :
    (BitVec.ofNat w a).extractLsb' lsb n = BitVec.ofNat n (a / 2 ^ lsb) := by
  ext k hk
  have hbit : lsb + k < w := by omega
  simp [BitVec.getElem_eq_testBit_toNat, hbit, hk, Nat.testBit_div_two_pow, Nat.add_comm k lsb]

/-- The three address bytes by division (R93); the bits above bit 23 are dropped (D28). -/
theorem addrBytesOf_ofNat (a : Nat) :
    addrBytesOf (BitVec.ofNat 24 a) = [BitVec.ofNat 8 (a / 65536), BitVec.ofNat 8 (a / 256), BitVec.ofNat 8 a] := by
  simp [addrBytesOf, extractLsb'_ofNat]

/-- Settles O4: between the opcode and the fillers stand the three address bytes. -/
theorem addrFrameIsOpcodeAddressDummies : Obligations.AddrFrameIsOpcodeAddressDummies := by
  intro cfg op a k
  rw [addrFrame, addrBytesOf_ofNat]
  rfl

/-! ## The response decoders -/

/-- Settles O5: both flags are read from the byte at index 1. -/
theorem statusDecodesBits0And1 : Obligations.StatusDecodesBits0And1 := by
  intro x b
  have hstatus : rxAt [x, b] 1 = b := rfl
  rw [decodeStatus, hstatus, busyFlag, welFlag]

/-- The identity check looks at the manufacturer and the capacity (R135). -/
theorem idOk_iff (cfg : Config) (rx : List Byte) :
    idOk cfg rx = true ↔ rxAt rx 1 = cfg.expMfr ∧ rxAt rx 3 = cfg.expCap := by
  rw [idOk, Bool.and_eq_true, beq_iff_eq, beq_iff_eq]

/-- Settles O6: the decoder and the check read the response by index, and the check leaves out index 2. -/
theorem identityDecodesBytes1To3 : Obligations.IdentityDecodesBytes1To3 := by
  intro cfg x m t c
  exact ⟨rfl, idOk_iff cfg [x, m, t, c]⟩

/-- Settles O7: past the first five bytes there are only the eight that the decoder takes. -/
theorem uidDecodesFromByte5 : Obligations.UidDecodesFromByte5 := by
  intro x0 x1 x2 x3 x4 id hlen
  have hdrop : (x0 :: x1 :: x2 :: x3 :: x4 :: id).drop 5 = id := rfl
  rw [decodeUid, hdrop, List.take_of_length_le hlen.le]

/-- Settles O8: the decoder reads the response at indices 4 and 5. -/
theorem deviceIdDecodesBytes4And5 : Obligations.DeviceIdDecodesBytes4And5 := by
  intro x0 x1 x2 x3 d e
  rfl

/-! ## Wire frames of two Transfers -/

/-- The frames of R91 with two Transfers: what the block sends in each, and which bytes of the second answer are the
response field. None of them is Read Status, which alone writes `SR`. -/
theorem twoPartFrames_meaning {s : State} {a : BitVec 24} {n : Nat} {p : List Byte} {i : Instr}
    {hdr body : List Byte} {field : List Byte → List Byte} (h : (i, hdr, body, field) ∈ twoPartFrames s.cfg a n p) :
    exec i s = runFrame i (frame2 hdr body) s ∧ wireParts s.cfg i = [hdr, body] ∧
      (∀ rx, responseField rx i = field rx) ∧ i ≠ .rdsr := by
  have haddr : ∀ op, addrFrame s.cfg op a.toNat 0 = op :: wireAddr24 a := fun op => addrFrame_toNat s.cfg op a 0
  have hdummy : ∀ op, addrFrame s.cfg op a.toNat 1 = op :: (wireAddr24 a ++ [s.cfg.filler]) := fun op =>
    addrFrame_toNat s.cfg op a 1
  simp only [twoPartFrames, ← haddr, ← hdummy, List.mem_cons, List.not_mem_nil, or_false, Prod.mk.injEq] at h
  rcases h with ⟨rfl, rfl, rfl, rfl⟩ | ⟨rfl, rfl, rfl, rfl⟩ | ⟨rfl, rfl, rfl, rfl⟩ <;>
  exact ⟨rfl, rfl, fun _ => rfl, nofun⟩

/-- Settles O21: the window returns what was answered to the body, and the frame's own row of R91 and R92 says the
rest. -/
theorem twoPartFramesComplete : Obligations.TwoPartFramesComplete := by
  intro s a n p i hdr body field r1 r2 xs hrow hidle hxfers h1 h2
  obtain ⟨hexec, hparts, hfield, hne⟩ := twoPartFrames_meaning hrow
  have hflat : [hdr, body].flatten = hdr ++ body := by simp
  rw [hexec, runFrame_ok hidle (frame2_ok hxfers h1 h2), hparts, hfield, hflat, if_neg hne]

/-! ## The frame that is built and not issued -/

/-- A wire frame that is built: its bytes and an Ok response, with no window between acceptance and response. -/
theorem buildFrame_ok {i : Instr} {s : State} (hidle : s.phase = .idle) :
    buildFrame i s = .next { s with
      cause := .none
      rdata := []
      info := []
      pos := .start
      job := none
      frameRx := []
      frameTx := (wireParts s.cfg i).flatten
      trace := s.trace ++ [.acceptFrame i, okResponse [] []] } := by
  rw [buildFrame, if_pos hidle]
  simp [conclude, acceptFrame, respondOk, okResponse, State.enter, State.emit, hidle]

/-- Settles O22: Read Device ID is built only, from the opcode, three zero bytes and two fillers (R132). -/
theorem readDeviceIdIsBuiltAndNotIssued : Obligations.ReadDeviceIdIsBuiltAndNotIssued := by
  intro s hidle
  have hexec : exec .rdid s = buildFrame .rdid s := rfl
  have hbytes : (wireParts s.cfg .rdid).flatten = [0x90, 0x00, 0x00, 0x00, s.cfg.filler, s.cfg.filler] := rfl
  rw [hexec, buildFrame_ok hidle, hbytes]

end Sys2Proof.Machine

/-! # The sequencer

The family of 41_sequencer.md: acceptance and the two grains of the step (R150, R164), chip-select (R153), why an
operation is aborted (R151, R152, R154, R155), the frames on the bus, and what a failed command leaves (R156, R157). -/

namespace Sys2Proof.Machine

/-! ## The step and the machine of one event at a time -/

/-- Settles O60: the phase machine follows every meaning from its acceptance. -/
theorem eventMachineReachesTheMeaning : Obligations.EventMachineReachesTheMeaning :=
  fun i _ hidle => exec_eq_ticks i hidle

/-- Settles O10: in IDLE, with the bus the block's own, the step of a well-formed offer is its meaning or its
acceptance. -/
theorem stepRunsTheDecodedInstruction : Obligations.StepRunsTheDecodedInstruction := by
  intro s o rest i hreset hidle hinbox hdecode hwf hforeign
  have hstep : step s = if s.byEvents then .next (acceptOffer o i { s with inbox := rest })
      else exec i { s with inbox := rest } := by
    simp [step, hreset, hidle, stepIdle, hinbox, hdecode, hwf, hforeign]
  rw [acceptOffer_eq_begun _ hdecode] at hstep
  exact ⟨fun hby => by rw [hstep, hby]; rfl, fun hby => by rw [hstep, hby]; rfl⟩

theorem SameOutside.inbox {s t : State} (h : SameOutside s t) : t.inbox = s.inbox := h.2.2.2.2

/-- Settles O12: with an operation in progress a step is reset, nothing, or one event of the operation. -/
theorem nothingIsAcceptedWhileBusy : Obligations.NothingIsAcceptedWhileBusy := by
  intro s hbusy
  refine ⟨fun i => exec_of_busy i hbusy, fun t h => ?_⟩
  rcases step_cases h with ⟨-, rfl⟩ | ⟨hidle, -⟩ | ⟨-, rfl | htick⟩
  · rfl
  · exact absurd hidle hbusy
  · rfl
  · exact (tick_oneEvent htick).outside.inbox

/-! ## Chip-select -/

theorem csWalk_concat (c : Option Bool) (es : List Event) (e : Event) :
    csWalk c (es ++ [e]) = csAfter (csWalk c es) e := by
  simp [csWalk]

/-- One more event that the discipline of R153 allows. -/
theorem BusDiscipline.event {s t : State} {e : Event} (h : BusDiscipline s) (htrace : t.trace = s.trace ++ [e])
    (he : csAfter (some s.cs) e = some t.cs) : BusDiscipline t := by
  rw [BusDiscipline, htrace, csWalk_concat, h, he]

/-- With chip-select deasserted, an event that belongs to no window leaves it so. -/
theorem BusDiscipline.aside {s t : State} {e : Event} (h : BusDiscipline s) (hcs : s.cs = false)
    (he : e.isAside = true) (htrace : t.trace = s.trace ++ [e]) (hcs' : t.cs = false) : BusDiscipline t := by
  refine h.event htrace ?_
  rw [hcs, hcs']
  cases e with
  | select b =>
    cases b with
    | true => cases he
    | false => rfl
  | transfer tx rx => cases he
  | _ => rfl

/-- `Select(false)` is always allowed. -/
theorem BusDiscipline.deselect {s : State} (h : BusDiscipline s) : BusDiscipline (s.select false) :=
  h.event rfl (by cases s.cs <;> rfl)

/-- A place outside a window, in a phase that has it, with chip-select deasserted. -/
theorem inv_closed {s : State} (hbus : BusDiscipline s) (hcs : s.cs = false) (hpos : s.pos.windowOpen = false)
    (hfits : posFits s.phase s.pos = true) (hjob : s.phase = .idle → s.job = none) : Inv s :=
  ⟨hbus, by rw [hcs, hpos], hfits, hjob⟩

/-- A move that makes no event, with chip-select deasserted. -/
theorem Quiet.inv {s t : State} (h : Quiet s t) (hbus : BusDiscipline s) (hcs : s.cs = false) : Inv t := by
  obtain ⟨htrace, hcs', hbusy, hpos⟩ := h
  have hbus' : BusDiscipline t := by rw [BusDiscipline, htrace, hcs']; exact hbus
  refine inv_closed hbus' (hcs'.trans hcs) ?_ ?_ fun hidle => absurd hidle hbusy
  · rcases hpos with hpos | ⟨hpos, -⟩ <;> rw [hpos] <;> rfl
  · rcases hpos with hpos | ⟨hpos, hwait⟩ <;> rw [hpos]
    · rfl
    · exact hwait

theorem raise_quiet (c : Cause) (s : State) : Quiet s (raise c s) := ⟨rfl, rfl, nofun, .inl rfl⟩

/-- VALIDATE makes no event, but INIT's `Select(false)` (row 3 of R164). -/
theorem tickValidate_quiet {s t : State} (h : tickValidate s = some t) : Quiet s t ∨ Quiet (s.select false) t := by
  unfold tickValidate at h
  split at h
  · cases h; exact .inl (raise_quiet _ s)
  · unfold afterValidate at h
    split at h
    case h_1 => cases h; exact .inr ⟨rfl, rfl, nofun, .inl rfl⟩
    case h_11 => cases h
    all_goals cases h; exact .inl ⟨rfl, rfl, nofun, .inl rfl⟩

theorem tickSplit_quiet (s : State) : Quiet s (tickSplit s) := by
  unfold tickSplit
  split <;> exact ⟨rfl, rfl, nofun, .inl rfl⟩

theorem Inv.cs_eq {s : State} {p : Pos} (h : Inv s) (hpos : s.pos = p) : s.cs = p.windowOpen := by
  obtain ⟨-, hcs, -⟩ := h
  rw [hcs, hpos]

/-- In a phase without a window chip-select is deasserted. -/
theorem Inv.cs_of_windowless {s : State} (h : Inv s) (hframe : s.phase.isFrame = false)
    (hwait : s.phase.isWait = false) : s.cs = false := by
  obtain ⟨-, hcs, hfits, -⟩ := h
  rw [hcs]
  cases hpos : s.pos <;> simp [posFits, hpos, hframe, hwait] at hfits
  rfl

theorem posFits_window {s : State} (h : Windowed s) {p : Pos} (hp : p.windowOpen = true) :
    posFits s.phase p = true := by
  have hor : (s.phase.isFrame || s.phase.isWait) = true := by simpa [Windowed] using h
  cases p with
  | sending | closing => exact hor
  | _ => cases hp

theorem Windowed.ne_idle {s : State} (h : Windowed s) : s.phase ≠ .idle := by
  intro hidle
  simp [Windowed, hidle, Phase.isFrame, Phase.isWait] at h

/-- `Select(true)` where no window is open. -/
theorem openWindow_inv {s t : State} (hs : Inv s) (hcs : s.cs = false) (h : openWindow s = some t) : Inv t := by
  obtain ⟨hbus, -⟩ := hs
  unfold openWindow at h
  split at h
  · cases h
  case h_2 tx later hparts =>
    have hwindowed : Windowed s := windowed_of_phaseParts (by simp [hparts])
    cases h
    exact ⟨hbus.event rfl (by rw [hcs]; rfl), rfl, posFits_window hwindowed rfl,
      fun hidle => absurd hidle hwindowed.ne_idle⟩

/-- Inside an open window: the next Transfer, or the `Select(false)` that closes it. -/
theorem tickWindow_inv {s t : State} (hs : Inv s) (hwindowed : Windowed s) (h : tickWindow s = some t) : Inv t := by
  obtain ⟨hbus, -⟩ := id hs
  unfold tickWindow at h
  split at h
  case h_1 tx later hpos =>
    have hcs : s.cs = true := hs.cs_eq hpos
    have hstay : ∀ (xs : List XferAnswer) (r : Option (List Byte)) (p : Pos), p.windowOpen = true →
        Inv (({ s with xfers := xs }.emit (.transfer tx r)).stay p) := fun xs r p hp =>
      ⟨hbus.event (e := .transfer tx r) rfl (by simp [hcs, csAfter]), by simp [hcs, hp], posFits_window hwindowed hp,
        fun hidle => absurd hidle hwindowed.ne_idle⟩
    split at h
    · cases h
    · dsimp only at h
      split at h <;> cases h <;> exact hstay _ _ _ rfl
  case h_2 => cases h; exact (raise_quiet _ _).inv hbus.deselect rfl
  case h_3 => exact (absorb_quiet h).inv hbus.deselect rfl
  case h_4 => cases h

theorem tickFrame_inv {s t : State} (hs : Inv s) (hframe : s.phase.isFrame = true) (h : tickFrame s = some t) :
    Inv t := by
  unfold tickFrame at h
  split at h
  case h_1 hpos => exact openWindow_inv hs (hs.cs_eq hpos) h
  case h_2 => exact tickWindow_inv hs (.inl hframe) h

/-- A wait has every place. -/
theorem posFits_wait {p : Phase} (h : p.isWait = true) (pos : Pos) : posFits p pos = true := by
  cases pos with
  | start => rfl
  | sending | closing => simp [posFits, h]
  | poll | busy | nap => exact h

/-- In a wait with no window open, an event that belongs to no window, and the place after it. -/
theorem Inv.waitEvent {s u : State} {e : Event} {p : Pos} (hs : Inv s) (hwait : s.phase.isWait = true)
    (hcs : s.cs = false) (he : e.isAside = true) (htrace : u.trace = s.trace ++ [e]) (hcs' : u.cs = s.cs)
    (hphase : u.phase = s.phase) (hp : p.windowOpen = false) : Inv (u.stay p) := by
  obtain ⟨hbus, -⟩ := hs
  have hclosed : u.cs = false := hcs'.trans hcs
  refine inv_closed (hbus.aside hcs he htrace hclosed) hclosed hp (posFits_wait (hphase ▸ hwait) p) fun hidle => ?_
  exact absurd (hphase.symm.trans hidle) (Windowed.ne_idle (.inr hwait))

theorem tickWait_inv {s t : State} (hs : Inv s) (hwait : s.phase.isWait = true) (h : tickWait s = some t) : Inv t := by
  obtain ⟨hbus, -⟩ := id hs
  unfold tickWait at h
  split at h
  case h_1 hpos =>
    split at h <;> cases h
    exact hs.waitEvent hwait (e := .millis _) (hs.cs_eq hpos) rfl rfl rfl rfl rfl
  case h_2 hpos => exact openWindow_inv hs (hs.cs_eq hpos) h
  case h_3 hpos =>
    have hcs := hs.cs_eq hpos
    split at h
    · cases h
    · dsimp only at h
      split at h <;> cases h
      · exact (raise_quiet _ _).inv (hbus.aside hcs (e := .millis _) rfl rfl hcs) hcs
      · exact hs.waitEvent hwait (e := .millis _) hcs rfl rfl rfl rfl rfl
  case h_4 hpos => cases h; exact hs.waitEvent hwait (e := .sleep _) (hs.cs_eq hpos) rfl rfl rfl rfl rfl
  case h_5 => exact tickWindow_inv hs (.inr hwait) h

/-- One event keeps the invariant. -/
theorem tick_inv {s t : State} (hs : Inv s) (h : tick s = some t) : Inv t := by
  obtain ⟨hbus, -⟩ := id hs
  cases hphase : s.phase <;> simp only [tick, hphase] at h
  case idle => cases h
  case validate =>
    have hcs : s.cs = false := hs.cs_of_windowless (by rw [hphase]; rfl) (by rw [hphase]; rfl)
    rcases tickValidate_quiet h with hquiet | hquiet
    · exact hquiet.inv hbus hcs
    · exact hquiet.inv hbus.deselect rfl
  case split =>
    cases h
    exact (tickSplit_quiet s).inv hbus (hs.cs_of_windowless (by rw [hphase]; rfl) (by rw [hphase]; rfl))
  case waitReady | waitComplete => exact tickWait_inv hs (by rw [hphase]; rfl) h
  case writeEnable | commandIssue | idRead | uidRead => exact tickFrame_inv hs (by rw [hphase]; rfl) h
  case done | failed =>
    have hcs : s.cs = false := hs.cs_of_windowless (by rw [hphase]; rfl) (by rw [hphase]; rfl)
    cases h
    exact inv_closed (hbus.aside hcs (e := .respond _) rfl rfl hcs) hcs rfl rfl fun _ => rfl

theorem begun_ne_idle (i : Instr) (s : State) : (begun i s).phase ≠ .idle := by
  rcases begun_cases i s with ⟨r, -, h⟩ | h <;> rw [h]
  · simp
  · simpa using framePhase_ne_idle i

/-- Acceptance, in IDLE, begins with chip-select deasserted. -/
theorem begun_inv (i : Instr) {s : State} (hs : Inv s) (hidle : s.phase = .idle) : Inv (begun i s) := by
  obtain ⟨hbus, -⟩ := id hs
  have hcs : s.cs = false := hs.cs_of_windowless (by rw [hidle]; rfl) (by rw [hidle]; rfl)
  have hbusy := begun_ne_idle i s
  rcases begun_cases i s with ⟨r, -, h⟩ | h <;> rw [h] at hbusy ⊢
  · exact inv_closed (hbus.aside hcs (e := .accept r) rfl rfl hcs) hcs rfl rfl fun hidle => absurd hidle hbusy
  · exact inv_closed (hbus.aside hcs (e := .acceptFrame i) rfl rfl hcs) hcs rfl rfl fun hidle => absurd hidle hbusy

/-- Settles O54: reset deasserts chip-select, acceptance finds it deasserted, and every event, so every meaning, keeps
the invariant. -/
theorem stepKeepsTheBusInvariant : Obligations.StepKeepsTheBusInvariant := by
  intro s t hs h
  obtain ⟨hbus, -⟩ := id hs
  rcases step_cases h with ⟨-, rfl⟩ |
    ⟨hidle, rfl | ⟨o, rest, i, -, hdecode, -, ⟨-, rfl⟩ | ⟨-, hexec⟩⟩⟩ | ⟨-, rfl | htick⟩
  · exact inv_closed hbus.deselect rfl rfl rfl fun _ => rfl
  · exact hs
  · rw [acceptOffer_eq_begun _ hdecode]
    exact begun_inv i (s := { s with inbox := rest }) hs hidle
  · have hs' : Inv { s with inbox := rest } := hs
    exact exec_induct (s := { s with inbox := rest }) (fun _ _ => tick_inv) hidle (begun_inv i hs' hidle) hexec
  · exact hs
  · exact tick_inv hs htick

/-! ## A wire frame that faults -/

/-- A wire frame run by itself whose window faults: its bytes, the bytes it could reach, an Error response, and what the
window itself leaves. -/
theorem runFrame_faulted {i : Instr} {window : State → Run (List Byte)} {s : State} {xs : List XferAnswer}
    {es : List Event} (hidle : s.phase = .idle) (hne : i ≠ .rdid)
    (hwindow : window (acceptFrame i s) = .err .transportFault { acceptFrame i s with
      cs := false, xfers := xs, trace := (acceptFrame i s).trace ++ es }) :
    runFrame i window s = .next { s with
      cs := false
      cause := .transportFault
      rdata := []
      info := []
      pos := .start
      job := none
      frameRx := []
      frameTx := (wireParts s.cfg i).flatten
      xfers := xs
      unknownFlash := s.unknownFlash ++ frameReach s.cfg i
      trace := s.trace ++ ([.acceptFrame i] ++ es ++ [errorResponse .transportFault]) } := by
  rw [runFrame, if_pos hidle, hwindow]
  simp [acceptFrame, framePhase_issued hne, respondError, raise, reachNow, errorResponse, State.enter, State.emit,
    hidle]

/-- `window` is the bus window of the Transfers `parts`. -/
inductive IsWindow : List (List Byte) → (State → Run (List Byte)) → Prop
  | one (tx : List Byte) : IsWindow [tx] (frame tx)
  | two (hdr body : List Byte) : IsWindow [hdr, body] (frame2 hdr body)

/-- Every wire frame but Read Device ID is run in the window of its Transfers. -/
theorem wireFrame_window {i : Instr} (s : State) (hi : isRequest i = false) (hne : i ≠ .rdid) :
    ∃ window, exec i s = runFrame i window s ∧ IsWindow (wireParts s.cfg i) window := by
  cases i with
  | rdid => exact absurd rfl hne
  | wren | rdsr | se | be32 | be64 | ce | rdjdid | rduid => exact ⟨_, rfl, .one _⟩
  | read | fastRead | pp => exact ⟨_, rfl, .two _ _⟩
  | _ => cases hi

/-- A window of which a Transfer faults, by its events. -/
theorem IsWindow.failed {parts rxs : List (List Byte)} {window : State → Run (List Byte)} {s : State}
    {xs : List XferAnswer} (h : IsWindow parts window) (hbegin : answersBegin parts rxs)
    (hxfers : s.xfers = rxs.map .ok ++ .fault :: xs) :
    window s = .err .transportFault { s with
      cs := false, xfers := xs, trace := s.trace ++ faultEvents parts rxs } := by
  cases h with
  | one tx =>
    obtain ⟨hlen, -⟩ := hbegin
    have hnil : rxs = [] := List.length_eq_zero_iff.1 (Nat.lt_one_iff.1 hlen)
    subst hnil
    exact frame_failed hxfers
  | two hdr body => exact frame2_failed hbegin hxfers

/-- Settles O23: the frame's window is that of its Transfers, and where it faults the operation is aborted in
COMMAND_ISSUE. -/
theorem faultedFrameClosesItsWindow : Obligations.FaultedFrameClosesItsWindow := by
  intro s i rxs xs hi hne hbegin hidle hxfers
  obtain ⟨window, hexec, hwindow⟩ := wireFrame_window s hi hne
  rw [hexec, runFrame_faulted hidle hne (hwindow.failed hbegin hxfers)]

/-! ## Why an operation is aborted -/

/-- The operation goes on: no cause is raised and no response is made. -/
def GoesOn (s t : State) : Prop := t.cause = s.cause ∧ t.phase ≠ .failed ∧ t.phase ≠ .idle

/-- What one event does to the cause: it goes on, raises a cause and why (60_exceptions.md R233), or responds. -/
inductive CauseStep (s : State) : State → Prop
  | goesOn {t : State} (h : GoesOn s t) : CauseStep s t
  | invalid {c : Cause} (h : validate s = some c) : CauseStep s (raise c s)
  | late {now : U32} {rest : List U32} (h : timedOut s.t0 s.tbudget now = true) :
      CauseStep s (raise .timeout ({ s with millis := rest }.emit (.millis now)))
  | faulted (h : s.pos = .closing none) : CauseStep s (raise .transportFault (s.select false))
  | mismatch : CauseStep s (raise .identityMismatch (s.select false))
  | respondedOk (h : s.phase = .done) : CauseStep s (respondOk s)
  | respondedError (h : s.phase = .failed) : CauseStep s (respondError s)

theorem afterValidate_goesOn {s t : State} (h : afterValidate s = some t) : GoesOn s t := by
  unfold afterValidate at h
  split at h <;> cases h <;> exact ⟨rfl, nofun, nofun⟩

theorem tickSplit_goesOn (s : State) : GoesOn s (tickSplit s) := by
  unfold tickSplit
  split <;> exact ⟨rfl, nofun, nofun⟩

theorem afterWait_goesOn {s t : State} (h : afterWait s = some t) : GoesOn s t := by
  unfold afterWait at h
  split at h <;> cases h <;> exact ⟨rfl, nofun, nofun⟩

theorem afterCommand_goesOn {rx : List Byte} {s t : State} (h : afterCommand rx s = some t) : GoesOn s t := by
  unfold afterCommand at h
  split at h
  · cases h; exact ⟨rfl, nofun, nofun⟩
  · split at h <;> cases h <;> exact ⟨rfl, nofun, nofun⟩

theorem afterUid_goesOn {ru : List Byte} {s t : State} (h : afterUid ru s = some t) : GoesOn s t := by
  unfold afterUid at h
  split at h <;> cases h <;> exact ⟨rfl, nofun, nofun⟩

/-- A window's bytes raise a cause only where they are the wrong identity. -/
theorem absorb_cause {rx : List Byte} {s t : State} (h : absorb rx s = some t) :
    GoesOn s t ∨ t = raise .identityMismatch s := by
  cases hphase : s.phase
  case waitReady | waitComplete =>
    rw [absorb_wait rx (by rw [hphase]; rfl)] at h
    split at h
    · cases h; exact .inl ⟨rfl, by simp [hphase], by simp [hphase]⟩
    · have hgoes := afterWait_goesOn h
      exact .inl hgoes
  all_goals simp only [absorb, hphase] at h
  case writeEnable => cases h; exact .inl ⟨rfl, nofun, nofun⟩
  case commandIssue => exact .inl (afterCommand_goesOn h)
  case idRead =>
    split at h <;> cases h
    · exact .inl ⟨rfl, nofun, nofun⟩
    · exact .inr rfl
  case uidRead => exact .inl (afterUid_goesOn h)
  all_goals cases h

theorem Windowed.ne_failed {s : State} (h : Windowed s) : s.phase ≠ .failed := by
  intro hfailed
  simp [Windowed, hfailed, Phase.isFrame, Phase.isWait] at h

/-- The procedure of a window or of a wait goes on in its phase. -/
theorem Within.goesOn {s t : State} (h : Within s t) (hs : Windowed s) : GoesOn s t := by
  cases h
  exact ⟨rfl, hs.ne_failed, hs.ne_idle⟩

theorem openWindow_cause {s t : State} (hs : Windowed s) (h : openWindow s = some t) : CauseStep s t := by
  unfold openWindow at h
  split at h <;> cases h
  exact .goesOn (((within_select s true).trans (within_stay _ _)).goesOn hs)

theorem tickWindow_cause {s t : State} (hs : Windowed s) (h : tickWindow s = some t) : CauseStep s t := by
  unfold tickWindow at h
  split at h
  case h_1 =>
    split at h
    · cases h
    · dsimp only at h
      split at h <;> cases h <;> exact .goesOn (Within.goesOn (by constructor) hs)
  case h_2 hpos => cases h; exact .faulted hpos
  case h_3 =>
    rcases absorb_cause h with hgoes | rfl
    · exact .goesOn hgoes
    · exact .mismatch
  case h_4 => cases h

theorem tickFrame_cause {s t : State} (hs : Windowed s) (h : tickFrame s = some t) : CauseStep s t := by
  unfold tickFrame at h
  split at h
  · exact openWindow_cause hs h
  · exact tickWindow_cause hs h

theorem tickWait_cause {s t : State} (hs : Windowed s) (h : tickWait s = some t) : CauseStep s t := by
  unfold tickWait at h
  split at h
  case h_1 =>
    split at h <;> cases h
    exact .goesOn (Within.goesOn (by constructor) hs)
  case h_2 => exact openWindow_cause hs h
  case h_3 =>
    split at h
    · cases h
    · dsimp only at h
      split at h
      case isTrue hlate => cases h; exact .late hlate
      case isFalse => cases h; exact .goesOn (Within.goesOn (by constructor) hs)
  case h_4 => cases h; exact .goesOn (Within.goesOn (by constructor) hs)
  case h_5 => exact tickWindow_cause hs h

/-- Every event goes on, raises a cause for its reason, or responds. -/
theorem tick_cause {s t : State} (h : tick s = some t) : CauseStep s t := by
  cases hphase : s.phase <;> simp only [tick, hphase] at h
  case idle => cases h
  case validate =>
    cases hvalid : validate s <;> simp only [tickValidate, hvalid] at h
    · exact .goesOn (afterValidate_goesOn h)
    · cases h; exact .invalid hvalid
  case split => cases h; exact .goesOn (tickSplit_goesOn s)
  case waitReady | waitComplete => exact tickWait_cause (.inr (by rw [hphase]; rfl)) h
  case writeEnable | commandIssue | idRead | uidRead => exact tickFrame_cause (.inl (by rw [hphase]; rfl)) h
  case done => cases h; exact .respondedOk hphase
  case failed => cases h; exact .respondedError hphase

/-- The checks of R180 raise neither a timeout nor a fault of the transport. -/
theorem validate_cause {s : State} {c : Cause} (h : validate s = some c) :
    c ≠ .timeout ∧ c ≠ .transportFault := by
  have hmem := firstFailure_mem h
  constructor <;> rintro rfl <;> unfold checksOf at hmem <;> split at hmem <;>
    simp [dataChecks, pageChecks, eraseChecks] at hmem

/-- The last of the events `es` before an abort are its reason: before a Timeout a late reading of the counter, before a
TransportFault a Transfer that faulted and the `Select(false)` after it. -/
structure Blames (s : State) (es : List Event) : Prop where
  timeout : s.cause = .timeout →
    ∃ before now, es = before ++ [.millis now] ∧ timedOut s.t0 s.tbudget now = true
  transportFault : s.cause = .transportFault → ∃ before tx, es = before ++ [.transfer tx none, .select false]

/-- A cause is there only after an abort, and then for a reason. -/
structure CauseInv (s : State) : Prop where
  window : ∃ past, WindowAt past s
  busy : s.phase ≠ .failed → s.phase ≠ .idle → s.cause = .none
  failed : s.phase = .failed → Blames s s.trace
  idle : s.phase = .idle → s.cause ≠ .none → ∃ es, s.trace = es ++ [errorResponse s.cause] ∧ Blames s es

/-- At the close of a window that faulted, the faulted Transfer is the last event. -/
theorem WindowAt.last_faulted {past : List Event} {s : State} (h : WindowAt past s) (hpos : s.pos = .closing none) :
    ∃ before tx, s.trace = before ++ [.transfer tx none] := by
  cases h with
  | closed hclosed => rw [hpos] at hclosed; cases hclosed
  | sending hpos' => rw [hpos] at hpos'; cases hpos'
  | complete hpos' => rw [hpos] at hpos'; cases hpos'
  | @faulted sent later rxs tx _ _ _ htrace =>
    exact ⟨past ++ .select true :: answered sent rxs, tx, by simp [htrace]⟩

/-- An abort for a reason. -/
theorem causeInv_raise {c : Cause} {s : State} (hwindow : ∃ past, WindowAt past (raise c s))
    (h : Blames (raise c s) s.trace) : CauseInv (raise c s) :=
  ⟨hwindow, fun hne => absurd rfl hne, fun _ => h, nofun⟩

theorem tick_causeInv {s t : State} (hs : CauseInv s) (h : tick s = some t) : CauseInv t := by
  obtain ⟨⟨past, hat⟩, hbusy, hfailed, hidle⟩ := hs
  have hwindow : ∃ past, WindowAt past t := by
    obtain ⟨es, -, hat'⟩ := tick_windowAt hat h
    exact ⟨_, hat'⟩
  have hne_idle : s.phase ≠ .idle := by
    intro hphase
    simp [tick, hphase] at h
  cases tick_cause h with
  | goesOn hgoes =>
    obtain ⟨hcause, hf, hi⟩ := hgoes
    refine ⟨hwindow, fun _ _ => ?_, fun hphase => absurd hphase hf, fun hphase => absurd hphase hi⟩
    rw [hcause]
    refine hbusy (fun hphase => ?_) hne_idle
    simp only [tick, hphase] at h
    cases h
    exact hi rfl
  | invalid hvalid =>
    obtain ⟨ht, hf⟩ := validate_cause hvalid
    exact causeInv_raise hwindow ⟨fun hc => absurd hc ht, fun hc => absurd hc hf⟩
  | late hlate => exact causeInv_raise hwindow ⟨fun _ => ⟨_, _, rfl, hlate⟩, nofun⟩
  | faulted hpos =>
    obtain ⟨before, tx, htrace⟩ := hat.last_faulted hpos
    exact causeInv_raise hwindow ⟨nofun, fun _ => ⟨before, tx, by simp [htrace]⟩⟩
  | mismatch => exact causeInv_raise hwindow ⟨nofun, nofun⟩
  | respondedOk hphase =>
    have hcause : s.cause = .none := hbusy (by simp [hphase]) hne_idle
    exact ⟨hwindow, fun _ hi => absurd rfl hi, nofun, fun _ hc => absurd hcause hc⟩
  | respondedError hphase =>
    obtain ⟨ht, hf⟩ := hfailed hphase
    exact ⟨hwindow, fun _ hi => absurd rfl hi, nofun, fun _ _ => ⟨s.trace, rfl, ht, hf⟩⟩

theorem begun_causeInv (i : Instr) (s : State) : CauseInv (begun i s) := by
  have hbusy := begun_ne_idle i s
  rcases begun_cases i s with ⟨r, -, h⟩ | h <;> rw [h] at hbusy ⊢
  · exact ⟨⟨_, .closed rfl rfl⟩, fun _ _ => rfl, nofun, nofun⟩
  · refine ⟨⟨_, .closed rfl rfl⟩, fun _ _ => rfl, fun hfailed => ?_, fun hidle => absurd hidle hbusy⟩
    simp only [acceptFrame_phase, framePhase] at hfailed
    split at hfailed <;> cases hfailed

/-- An operation that ended with a cause made its Error response last, and before it came the reason. -/
theorem exec_blames {i : Instr} {s t : State} (hidle : s.phase = .idle) (h : exec i s = .next t)
    (hidle' : t.phase = .idle) (hcause : t.cause ≠ .none) :
    ∃ es, t.trace = es ++ [errorResponse t.cause] ∧ Blames t es :=
  (exec_induct (fun _ _ => tick_causeInv) hidle (begun_causeInv i s) h).idle hidle' hcause

/-- The elapsed time is the distance from T0, modulo 2^32 (R155). -/
theorem timedOut_iff (t0 budget now : U32) :
    timedOut t0 budget now = true ↔ budget.toNat ≤ (now.toNat + 2 ^ 32 - t0.toNat) % 2 ^ 32 := by
  have hlt := t0.isLt
  have hsub : (now - t0).toNat = (now.toNat + 2 ^ 32 - t0.toNat) % 2 ^ 32 := by
    rw [BitVec.toNat_sub]
    congr 1
    omega
  rw [timedOut, elapsed, decide_eq_true_iff, BitVec.le_def, hsub]

/-- Settles O40: what blames a Timeout is a reading where the budget has elapsed. -/
theorem timeoutNotBefore : Obligations.TimeoutNotBefore := by
  intro i s t hidle h hidle' hcause
  obtain ⟨es, htrace, hblames⟩ := exec_blames hidle h hidle' (by rw [hcause]; nofun)
  obtain ⟨before, now, rfl, hlate⟩ := hblames.timeout hcause
  exact ⟨before, now, by rw [htrace, hcause, List.append_assoc]; rfl, (timedOut_iff _ _ _).1 hlate⟩

/-- Settles O43: what blames a TransportFault is a Transfer that faulted in a window then closed. -/
theorem transportFaultFollowsAFailedTransfer : Obligations.TransportFaultFollowsAFailedTransfer := by
  intro i s t hidle h hidle' hcause
  obtain ⟨es, htrace, hblames⟩ := exec_blames hidle h hidle' (by rw [hcause]; nofun)
  obtain ⟨before, tx, rfl⟩ := hblames.transportFault hcause
  exact ⟨before, tx, by rw [htrace, hcause, List.append_assoc]; rfl⟩

/-! ## The windows of a well-formed instruction -/

/-- The phases of a request that follow its checks (42_operations.md R180). -/
def Phase.isChecked : Phase → Bool
  | .split | .waitReady | .writeEnable | .commandIssue | .waitComplete => true
  | .idle | .validate | .idRead | .uidRead | .done | .failed => false

/-- The phases after the checks are entered by passing them, or from one another. -/
theorem Row.checked {s t : State} (h : Row s t) (ht : t.phase.isChecked = true) :
    s.phase.isChecked = true ∨ validate s = none := by
  cases h with
  | validated _ hvalid _ => exact .inr hvalid
  | split hphase | enabled hphase | commanded _ hphase _ => rw [hphase]; exact .inl rfl
  | waited h =>
    left
    unfold afterWait at h
    split at h
    case h_15 => cases h
    all_goals rename_i hphase _; rw [hphase]; rfl
  | uidRead ru _ h =>
    unfold afterUid at h
    split at h <;> cases h <;> cases ht
  | fail | identified | respondedOk | respondedError => cases ht

/-- WPAGE and WRITE, whose requests carry the write data. -/
def carriesData : Op → Bool
  | .wpage | .write => true
  | .init | .read | .fread | .esect | .eb32 | .eb64 | .echip | .info | .reserved => false

/-- WPAGE and WRITE pass their checks only with a buffer. -/
theorem bufp_of_validate {s : State} (hop : carriesData (opOfCode s.req.op) = true) (h : validate s = none) :
    s.req.bufp = true := by
  unfold validate checksOf at h
  cases hcode : opOfCode s.req.op <;> simp only [hcode, carriesData, reduceCtorEq] at hop h
  case wpage =>
    obtain ⟨hdata, -⟩ := firstFailure_append_eq_none.1 h
    obtain ⟨hbufp, -⟩ := dataChecks_eq_none.1 hdata
    exact hbufp
  case write =>
    obtain ⟨hbufp, -⟩ := dataChecks_eq_none.1 h
    exact hbufp

/-- A request in progress whose WDATA is as R102 asks, and has a buffer once it is checked. -/
structure ServesWellFormed (s : State) : Prop where
  serves : ServesRequest s
  data : carriesData (opOfCode s.req.op) = true → s.req.writeWf = true
  buffer : carriesData (opOfCode s.req.op) = true → s.phase.isChecked = true → s.req.bufp = true

theorem tick_servesWellFormed {s t : State} (hs : ServesWellFormed s) (h : tick s = some t) : ServesWellFormed t := by
  obtain ⟨hserves, hdata, hbuffer⟩ := hs
  obtain ⟨hreq, -⟩ := tick_keepsRequest h
  refine ⟨tick_servesRequest hserves h, hreq ▸ hdata, ?_⟩
  rw [hreq]
  intro hop ht
  obtain ⟨s', hwithin, hend⟩ := tick_move h
  cases hwithin
  rcases hend with rfl | hrow
  · exact hbuffer hop ht
  · rcases hrow.checked ht with hchecked | hvalid
    · exact hbuffer hop hchecked
    · exact bufp_of_validate hop hvalid

/-- R102 for the request record of a well-formed WPAGE or WRITE. -/
theorem writeWf_of_wf {cfg cfg' : Config} {i : Instr} {r : Request} (hr : requestOf cfg i = some r)
    (hwf : i.wf cfg' = true) (hop : carriesData (opOfCode r.op) = true) : r.writeWf = true := by
  cases i <;> cases hr
  case reqWpage | reqWrite => exact hwf
  case reservedAB b q => simp [opOfCode_reservedAB, carriesData] at hop
  case reservedCF c q => simp [opOfCode_reservedCF, carriesData] at hop
  all_goals cases hop

theorem begun_servesWellFormed {i : Instr} {s : State} (hvalid : s.cfg.Valid) (hi : isRequest i = true)
    (hwf : i.wf s.cfg = true) : ServesWellFormed (begun i s) := by
  have hserves := begun_servesRequest hvalid hi hwf
  rcases begun_cases i s with ⟨r, hr, h⟩ | h <;> rw [h] at hserves ⊢
  · exact ⟨hserves, writeWf_of_wf hr hwf, nofun⟩
  · cases hserves.job

/-- A checked WPAGE or WRITE has LEN bytes of data. -/
theorem ServesWellFormed.wdata_length {s : State} (hs : ServesWellFormed s)
    (hop : carriesData (opOfCode s.req.op) = true) (hchecked : s.phase.isChecked = true) :
    s.req.wdata.length = s.req.len.toNat := by
  have hwf := (writeWf_iff s.req.toArgs).1 (hs.data hop)
  rwa [if_pos (hs.buffer hop hchecked)] at hwf

theorem Phase.isChecked_of_isRunning {p : Phase} (h : p.isRunning = true) : p.isChecked = true := by
  cases p with
  | waitReady | writeEnable | commandIssue | waitComplete => rfl
  | _ => cases h

/-- The chunk of a WRITE in progress has data: OFF is below the length of WDATA. -/
theorem chunkData_ne_nil {s : State} (hvalid : s.cfg.Valid) (hs : ChunkInv s)
    (hdata : s.req.wdata.length = s.req.len.toNat) : chunkData s ≠ [] := by
  obtain ⟨⟨-, -, hrem⟩, hpos, hlen⟩ := hs
  obtain ⟨hpage, -⟩ := hvalid
  obtain ⟨hone, -, -⟩ := chunkLen_bounds s.cfg s.addr.toNat s.rem.toNat hpage hpos
  rw [← List.length_pos_iff, chunkData, List.length_take, List.length_drop]
  omega

theorem frameRx_ne_nil {cfg : Config} {n : Nat} (h : 1 ≤ n) : frameRx cfg n ≠ [] := by
  rw [← List.length_pos_iff, frameRx, fill, List.length_replicate]
  exact h

/-- No Transfer of a command window is empty. -/
theorem commandParts_ne_nil {s : State} (hs : ServesWellFormed s) (hrun : s.phase.isRunning = true) :
    ∀ tx ∈ commandParts s, tx ≠ [] := by
  have hregs := (hs.serves.regs hs.serves.job).2 hrun
  have hdata := fun hop => hs.wdata_length hop (Phase.isChecked_of_isRunning hrun)
  cases hop : opOfCode s.req.op <;> simp only [hop] at hregs hdata <;>
    simp only [commandParts, hop, List.forall_mem_cons, List.not_mem_nil, IsEmpty.forall_iff, implies_true, and_true]
  case read | fread =>
    obtain ⟨-, -, hlen, -⟩ := hregs
    exact ⟨nofun, frameRx_ne_nil hlen⟩
  case wpage =>
    obtain ⟨-, hlen, hfits, -⟩ := hregs
    simp only [pageFits, Bool.and_eq_true, decide_eq_true_eq] at hfits
    refine ⟨nofun, List.length_pos_iff.1 ?_⟩
    rw [hdata rfl, ← hlen]
    omega
  case write => exact ⟨nofun, chunkData_ne_nil hs.serves.valid hregs (hdata rfl)⟩
  all_goals exact nofun

/-- A wire frame in range with no empty Transfer is well-formed. -/
theorem wf_of_parts {cfg : Config} {j : Instr} (hj : isRequest j = false) (hrange : frameInRange cfg j)
    (hparts : ∀ tx ∈ wireParts cfg j, tx ≠ []) : j.wf cfg = true := by
  cases j with
  | wren | rdsr | se | be32 | be64 | ce | rdjdid | rdid | rduid => rfl
  | read a n | fastRead a n =>
    have hbody : frameRx cfg n ≠ [] := hparts _ (by simp [wireParts])
    simpa [Instr.wf, frameRx, fill, Nat.one_le_iff_ne_zero] using hbody
  | pp a p =>
    have hbody : p ≠ [] := hparts _ (by simp [wireParts])
    have hpos : 1 ≤ p.length := List.length_pos_iff.2 hbody
    obtain ⟨-, hfits⟩ := hrange
    have hle : p.length ≤ cfg.pageSize := by omega
    simp [Instr.wf, hpos, hle]
  | _ => cases hj

/-- No phase of a request sends Read Device ID (D31). -/
theorem phaseParts_ne_rdid {s : State} (hjob : s.job = none) : phaseParts s ≠ wireParts s.cfg .rdid := by
  cases hphase : s.phase <;> simp only [phaseParts, hphase, hjob]
  case commandIssue =>
    cases hop : opOfCode s.req.op <;>
      simp [commandParts, hop, wireParts, frameREADhdr, frameFREADhdr, framePPhdr, frameSE, frameBE32, frameBE64,
        frameCE, frameRDID, addrFrame]
  all_goals simp [wireParts, frameRDSR, frameWREN, frameRDJDID, frameRDUID, frameRDID]

/-- The Transfers are those of one well-formed wire frame other than Read Device ID. -/
def SendsFrame (cfg : Config) (parts : List (List Byte)) : Prop :=
  ∃ j, isRequest j = false ∧ parts = wireParts cfg j ∧ j.wf cfg = true ∧ j ≠ .rdid

theorem phaseParts_ne_nil {s : State} (hs : ServesWellFormed s) : ∀ tx ∈ phaseParts s, tx ≠ [] := by
  cases hphase : s.phase <;> simp only [phaseParts, hphase, hs.serves.job]
  case commandIssue => exact commandParts_ne_nil hs (by rw [hphase]; rfl)
  all_goals simp [frameRDSR, frameWREN, frameRDJDID, frameRDUID]

theorem ServesWellFormed.sendsFrame {s : State} (hs : ServesWellFormed s) (hparts : phaseParts s ≠ []) :
    SendsFrame s.cfg (phaseParts s) := by
  obtain ⟨j, hj, hframe, hrange⟩ := phaseParts_inRange hs.serves hparts
  refine ⟨j, hj, hframe, wf_of_parts hj hrange (hframe ▸ phaseParts_ne_nil hs), ?_⟩
  rintro rfl
  exact phaseParts_ne_rdid hs.serves.job hframe

/-- The wire frame `i` is run by itself: in COMMAND_ISSUE, or its window is behind it, or it has none. -/
def RunsFrame (i : Instr) (s : State) : Prop :=
  s.phase = .commandIssue ∧ s.job = some i ∨ s.phase = .done ∨ s.phase = .failed ∨ s.phase = .idle

/-- A row of the table ends a wire frame run by itself, or responds to it. -/
theorem Row.runsFrame {i : Instr} {s t : State} (h : Row s t) (hs : RunsFrame i s) : RunsFrame i t := by
  cases h with
  | fail => exact .inr (.inr (.inl rfl))
  | validated hphase | split hphase | enabled hphase | identified _ hphase | uidRead _ hphase _ =>
    simp [RunsFrame, hphase] at hs
  | waited h =>
    unfold afterWait at h
    split at h
    case h_15 => cases h
    all_goals rename_i hphase _; simp [RunsFrame, hphase] at hs
  | commanded rx hphase h =>
    have hjob : s.job = some i := by simpa [RunsFrame, hphase] using hs
    simp only [afterCommand, hjob] at h
    cases h
    exact .inr (.inl rfl)
  | respondedOk | respondedError => exact .inr (.inr (.inr rfl))

theorem tick_runsFrame {i : Instr} {s t : State} (hs : RunsFrame i s) (h : tick s = some t) : RunsFrame i t := by
  obtain ⟨s', hwithin, hend⟩ := tick_move h
  cases hwithin
  rcases hend with rfl | hrow
  · exact hs
  · exact hrow.runsFrame hs

/-- A wire frame is accepted as itself. -/
theorem begun_wireFrame {i : Instr} (s : State) (hi : isRequest i = false) : begun i s = acceptFrame i s := by
  simp only [begun, requestOf, encode_wireFrame s.cfg hi]

theorem begun_runsFrame {i : Instr} (s : State) (hi : isRequest i = false) : RunsFrame i (begun i s) := by
  rw [begun_wireFrame s hi]
  by_cases hne : i = .rdid
  · exact .inr (.inl (by simp [framePhase, hne]))
  · exact .inl ⟨framePhase_issued hne, rfl⟩

theorem RunsFrame.sendsFrame {i : Instr} {s : State} (hs : RunsFrame i s) (hi : isRequest i = false)
    (hwf : i.wf s.cfg = true) (hparts : phaseParts s ≠ []) : SendsFrame s.cfg (phaseParts s) := by
  rcases hs with ⟨hphase, hjob⟩ | hphase | hphase | hphase
  · have hissued : phaseParts s = issuedParts s.cfg i := by simp [phaseParts, hphase, hjob]
    have hne : i ≠ .rdid := by
      rintro rfl
      exact hparts hissued
    exact ⟨i, hi, hissued.trans (issuedParts_issued hne), hwf, hne⟩
  all_goals simp [phaseParts, hphase] at hparts

/-- Along a run of a well-formed instruction every window sends one well-formed frame. -/
theorem exec_sendsFrame {P : State → Prop} {i : Instr} {s t : State} {new : List Event} {bytes : List Byte}
    (hP : ∀ u v, P u → tick u = some v → P v) (hbegun : P (begun i s))
    (hsends : ∀ u, u.cfg = s.cfg → P u → phaseParts u ≠ [] → SendsFrame s.cfg (phaseParts u))
    (hidle : s.phase = .idle) (h : exec i s = .next t) (htrace : t.trace = s.trace ++ new)
    (hbytes : bytes ∈ windows new) : ∃ j, decodeFrame bytes = .ok j ∧ j.wf s.cfg = true ∧ j ≠ .rdid := by
  obtain ⟨u, ⟨hu, hcfg⟩, hparts, rfl⟩ :=
    exec_windows (P := fun u => P u ∧ u.cfg = s.cfg)
      (fun u v ⟨hu, hcfg⟩ htick => ⟨hP u v hu htick, (tick_oneEvent htick).outside.cfg.trans hcfg⟩) hidle
      ⟨hbegun, (begun_sameOutside i s).cfg⟩ h htrace hbytes
  obtain ⟨j, hj, hframe, hwf, hne⟩ := hsends u hcfg hu hparts
  rw [hframe]
  exact ⟨j, decodeFrame_encodeFrame s.cfg hj, hwf, hne⟩

/-- Settles O51: a request's windows send the frames of its phases, whose data the checks and R102 keep from being
empty, and a wire frame's window sends the frame itself. -/
theorem everyWindowIsOneFrame : Obligations.EveryWindowIsOneFrame := by
  intro i s t new hvalid hwf hidle h htrace bytes hbytes
  cases hi : isRequest i
  · exact exec_sendsFrame (P := RunsFrame i) (fun _ _ => tick_runsFrame) (begun_runsFrame s hi)
      (fun u hcfg hu hparts => hcfg ▸ hu.sendsFrame hi (hcfg ▸ hwf) hparts) hidle h htrace hbytes
  · exact exec_sendsFrame (P := ServesWellFormed) (fun _ _ => tick_servesWellFormed)
      (begun_servesWellFormed hvalid hi hwf) (fun u hcfg hu hparts => hcfg ▸ hu.sendsFrame hparts) hidle h htrace
      hbytes

/-! ## The checks, as R180 lists them -/

/-- The checks of a request are those that `specCause` writes out. -/
theorem specCause_eq {cfg : Config} {init : Bool} {i : Instr} {r : Request} (hr : requestOf cfg i = some r) :
    specCause cfg init i = firstFailure (checksOf cfg init r) := by
  cases i <;> cases hr
  case reqRead | reqFread | reqWrite =>
    simp [specCause, specDataCause, checksOf, opOfCode, dataChecks, firstFailure, rangeFits, eq_zero_iff_toNat]
  case reqWpage =>
    simp [specCause, specPageCause, checksOf, opOfCode, dataChecks, pageChecks, firstFailure, rangeFits,
      eq_zero_iff_toNat]
  case reqEsect | reqEb32 | reqEb64 =>
    simp [specCause, specEraseCause, checksOf, opOfCode, eraseChecks, firstFailure]
  case reqInfo => simp [specCause, checksOf, opOfCode, firstFailure]
  case reqInit | reqEchip => rfl
  case reservedAB b q => simp [specCause, checksOf, opOfCode_reservedAB, firstFailure]
  case reservedCF c q => simp [specCause, checksOf, opOfCode_reservedCF, firstFailure]

/-- A request that passes its checks, and whose body then fails, is answered with the cause. -/
theorem serve_failed {r : Request} {body : State → Run Unit} {s u : State} {c : Cause} (hidle : s.phase = .idle)
    (hvalid : validate (accept r s) = none) (hbody : body (accept r s) = .err c u) :
    serve r body s = .next (respondError (raise c u)) := by
  rw [serve, if_pos hidle, checked, hvalid, andThen_ok, hbody, conclude_err]

/-! ## Commands that fail -/

/-- A register's address on the wire: its low 24 bits, high byte first (R93). -/
theorem addrFrame_register (cfg : Config) (op : Byte) (a : U32) : addrFrame cfg op a.toNat 0 = op :: wireAddr a := by
  rw [addrFrame, addrBytesOf_ofNat]
  simp [wireAddr, BitVec.extractLsb', fill, Nat.shiftRight_eq_div_pow]

theorem SameCommand.req {s s' : State} (h : SameCommand s s') : s'.req = s.req := h.1
theorem SameCommand.cfg {s s' : State} (h : SameCommand s s') : s'.cfg = s.cfg := h.2.1
theorem SameCommand.addr {s s' : State} (h : SameCommand s s') : s'.addr = s.addr := h.2.2.1

/-- A request of one command: its body sets ADDR and LEN as in `u` and then runs the phases of R157, which end as the
host's answers make them fail, and its command can reach `reach`. -/
structure OneCommand (s : State) (i : Instr) (r : Request) (parts : List (List Byte)) (budget : U32) (reach : Span)
    (body : State → Run Unit) (u : State) : Prop where
  request : requestOf s.cfg i = some r
  meaning : exec i s = serve r body s
  registers : ∃ addr len, u = { accept r s with addr := addr, len := len }
  reach : ∀ v, SameCommand u v → commandReach v = [reach]
  fails : ∀ (f : FailedCommand) (xs : List XferAnswer) (ms : List U32), f.Fails u.cfg budget parts →
    u.xfers = f.answers ++ xs → u.millis = f.readings ++ ms →
    ∃ tb t0 sr, body (accept r s) = .err f.cause { u with
      tbudget := tb, phase := f.phase, pos := .start
      cs := false, xfers := xs, millis := ms, t0 := t0, sr := sr
      trace := u.trace ++ f.events u.cfg parts }

theorem oneCommand_wpage (s : State) (q : Args) :
    OneCommand s (.reqWpage q) (mkRequest 0x3 q) [0x02 :: wireAddr q.addr, q.wdata] s.cfg.tPpMs
      ⟨q.addr.toNat, q.len.toNat⟩ (fun u => programPhases (fun v => v.req.wdata) (loadAddrLen u))
      (loadAddrLen (accept (mkRequest 0x3 q) s)) where
  request := rfl
  meaning := rfl
  registers := ⟨q.addr, q.len, rfl⟩
  reach := by
    rintro v ⟨hreq, -, haddr, hlen, -⟩
    simp [commandReach, hreq, haddr, hlen, mkRequest, opOfCode]
  fails := fun _ _ _ hf hx hm =>
    programPhases_failed rfl hf (addrFrame_register _ _ _) (fun v hv => congrArg (·.wdata) hv.req) hx hm

theorem oneCommand_echip (s : State) (q : Args) :
    OneCommand s (.reqEchip q) (mkRequest 0x8 q) [[0xC7]] s.cfg.tCeMs ⟨0, s.cfg.chipSize⟩
      (erasePhases fun _ => frameCE) (accept (mkRequest 0x8 q) s) where
  request := rfl
  meaning := rfl
  registers := ⟨s.addr, s.len, rfl⟩
  reach := by
    rintro v ⟨hreq, hcfg, -⟩
    simp [commandReach, hreq, hcfg, mkRequest, opOfCode]
  fails := fun _ _ _ hf hx hm => erasePhases_failed rfl hf (fun _ _ => rfl) hx hm

/-- The rows of the unit erases: their code, checks and budget, what their command can reach, and their meaning, with
the frame they send at the aligned address. -/
theorem unitErases_meaning {s : State} {q : Args} {i : Instr} {op : BitVec 4} {code : Byte} {g : Nat} {budget : U32}
    (h : (i, op, code, g, budget) ∈ unitErases s.cfg q) :
    requestOf s.cfg i = some (mkRequest op q) ∧ specCause s.cfg s.init i = specEraseCause s.cfg q ∧
    completeBudget s.cfg (opOfCode op) = some budget ∧
    (∀ u : State, u.req = mkRequest op q → u.cfg = s.cfg → commandReach u = [⟨u.addr.toNat, g⟩]) ∧
    ∃ body, exec i s = serve (mkRequest op q) body s ∧ body (accept (mkRequest op q) s) =
      erasePhases (fun v => addrFrame v.cfg code v.addr.toNat 0) (alignTo g (accept (mkRequest op q) s)) := by
  simp only [unitErases, List.mem_cons, List.not_mem_nil, or_false, Prod.mk.injEq] at h
  rcases h with ⟨rfl, rfl, rfl, rfl, rfl⟩ | ⟨rfl, rfl, rfl, rfl, rfl⟩ | ⟨rfl, rfl, rfl, rfl, rfl⟩ <;>
  exact ⟨rfl, rfl, rfl, fun u hreq hcfg => by simp [commandReach, hreq, hcfg, mkRequest, opOfCode],
    _, rfl, rfl⟩

theorem oneCommand_unitErase {s : State} {q : Args} {i : Instr} {op : BitVec 4} {code : Byte} {g : Nat} {budget : U32}
    (h : (i, op, code, g, budget) ∈ unitErases s.cfg q) :
    ∃ body, OneCommand s i (mkRequest op q) [code :: wireAddr (BitVec.ofNat 32 (q.addr.toNat / g * g))] budget
      ⟨q.addr.toNat / g * g, g⟩ body (alignTo g (accept (mkRequest op q) s)) := by
  obtain ⟨hrequest, -, hbudget, hreach, body, hexec, hbody⟩ := unitErases_meaning h
  refine ⟨body, hrequest, hexec, ⟨_, s.len, rfl⟩, fun v hv => ?_, fun f xs ms hf hx hm => ?_⟩
  · rw [hreach v hv.req hv.cfg, hv.addr, alignTo_addr_toNat]
    rfl
  · rw [hbody]
    exact erasePhases_failed hbudget hf (fun v hv => by rw [addrFrame_register, hv.addr]; rfl) hx hm

/-- Every row of `oneCommand` is a request of one command. -/
theorem oneCommand_meaning {s : State} {q : Args} {i : Instr} {op : BitVec 4} {parts : List (List Byte)} {budget : U32}
    {reach : Span} (h : (i, op, parts, budget, reach) ∈ oneCommand s.cfg q) :
    ∃ body u, OneCommand s i (mkRequest op q) parts budget reach body u := by
  rcases List.mem_append.1 h with h | h
  · simp only [List.mem_cons, List.not_mem_nil, or_false, Prod.mk.injEq] at h
    rcases h with ⟨rfl, rfl, rfl, rfl, rfl⟩ | ⟨rfl, rfl, rfl, rfl, rfl⟩
    · exact ⟨_, _, oneCommand_wpage s q⟩
    · exact ⟨_, _, oneCommand_echip s q⟩
  · obtain ⟨⟨i', op', code, g, budget'⟩, hrow, heq⟩ := List.mem_map.1 h
    simp only [Prod.mk.injEq] at heq
    obtain ⟨rfl, rfl, rfl, rfl, rfl⟩ := heq
    obtain ⟨body, hone⟩ := oneCommand_unitErase hrow
    exact ⟨body, _, hone⟩

/-- An abort in the phase of a failed command leaves unknown what the command could reach, if it was begun (R73). -/
theorem reachNow_failed {f : FailedCommand} {u : State} {reach : Span} (hjob : u.job = none)
    (hphase : u.phase = f.phase) (hreach : commandReach u = [reach]) :
    reachNow u = if f.begun then [reach] else [] := by
  cases f <;> simp only [FailedCommand.phase] at hphase <;>
    simp [reachNow, hphase, hjob, hreach, FailedCommand.begun]

/-- Settles O44: the body of each operation ends as the script fails, in the script's phase, and the abort there adds
what the command could reach. -/
theorem commandFailureLeavesItsReachUnknown : Obligations.CommandFailureLeavesItsReachUnknown := by
  intro s q i op parts budget reach f xs ms hrow hidle hcause hf hxfers hmillis
  obtain ⟨body, u, hone⟩ := oneCommand_meaning hrow
  have hvalid : validate (accept (mkRequest op q) s) = none := (specCause_eq hone.request).symm.trans hcause
  obtain ⟨addr, len, rfl⟩ := hone.registers
  obtain ⟨tb, t0, sr, hbody⟩ := hone.fails f xs ms hf hxfers hmillis
  refine ⟨_, hone.meaning.trans (serve_failed hidle hvalid hbody), by simp, by simp, by simp, by simp,
    by simp, by simp, by simp, by simp, by simp [SameHandle], by simp [SameOutside], ?_, ?_⟩
  · rw [respondError_unknownFlash, raise_unknownFlash]
    exact congrArg (s.unknownFlash ++ ·) (reachNow_failed rfl rfl (hone.reach _ ⟨rfl, rfl, rfl, rfl, rfl⟩))
  · simp [errorResponse]

/-! ## A unit erase that times out -/

/-- The polling loop along busy polls within the budget goes on after them. -/
theorem pollLoop_busy {budget : U32} (busy : List BusyPoll) {s : State} {xs : List XferAnswer} {ms : List U32}
    (hbudget : s.tbudget = budget)
    (hbusy : ∀ b ∈ busy, b.rx.length = 2 ∧ busyFlag (rxAt b.rx 1) = true ∧ timedOut s.t0 budget b.now = false)
    (hx : s.xfers = busy.map (fun b => .ok b.rx) ++ xs) (hm : s.millis = busy.map BusyPoll.now ++ ms) :
    ∃ cs sr, pollLoop s.millis s = pollLoop ms { s with
      cs := cs, xfers := xs, sr := sr, millis := ms
      trace := s.trace ++ busy.flatMap (fun b => windowEvents [frameRDSR s.cfg] [b.rx] ++
        [.millis b.now, .sleep s.cfg.pollMs]) } := by
  induction busy generalizing s with
  | nil =>
    simp only [List.map_nil, List.nil_append] at hx hm
    exact ⟨s.cs, s.sr, by simp [← hx, ← hm]⟩
  | cons b bs ih =>
    obtain ⟨hlen, hflag, htime⟩ := hbusy b (by simp)
    simp only [List.map_cons, List.cons_append] at hx hm
    rw [hm, pollLoop_again hx hlen hflag (hbudget ▸ htime)]
    obtain ⟨cs, sr, h⟩ := ih (s := { s with
        cs := false
        xfers := bs.map (fun b => .ok b.rx) ++ xs
        sr := rxAt b.rx 1
        millis := bs.map BusyPoll.now ++ ms
        trace := s.trace ++ (windowEvents [frameRDSR s.cfg] [b.rx] ++ [.millis b.now, .sleep s.cfg.pollMs]) })
      hbudget (fun b' hb' => hbusy b' (by simp [hb'])) rfl rfl
    exact ⟨cs, sr, by rw [h]; simp⟩

/-- WAIT_COMPLETE along busy polls within the budget and one at which it has elapsed. -/
theorem waitComplete_late {budget : U32} {busy : List BusyPoll} {p : BusyPoll} {t0 : U32} {s : State}
    {xs : List XferAnswer} {ms : List U32} (hbudget : completeBudget s.cfg (opOfCode s.req.op) = some budget)
    (hbusy : ∀ b ∈ busy, b.rx.length = 2 ∧ busyFlag (rxAt b.rx 1) = true ∧ timedOut t0 budget b.now = false)
    (hlen : p.rx.length = 2) (hflag : busyFlag (rxAt p.rx 1) = true) (hlate : timedOut t0 budget p.now = true)
    (hx : s.xfers = busy.map (fun b => .ok b.rx) ++ .ok p.rx :: xs)
    (hm : s.millis = t0 :: (busy.map BusyPoll.now ++ p.now :: ms)) :
    waitComplete s = .err .timeout { s with
      tbudget := budget, phase := .waitComplete, pos := .start
      cs := false, xfers := xs, millis := ms, t0 := t0, sr := rxAt p.rx 1
      trace := s.trace ++ ([.millis t0] ++ busy.flatMap (fun b => windowEvents [frameRDSR s.cfg] [b.rx] ++
        [.millis b.now, .sleep s.cfg.pollMs]) ++ windowEvents [frameRDSR s.cfg] [p.rx] ++ [.millis p.now]) } := by
  rw [waitComplete, waitLoop, readMillis_cons (s := enterComplete s) hm, andThen_ok]
  have hbudget' : (enterComplete s).tbudget = budget := by simp [enterComplete, hbudget]
  obtain ⟨cs, sr, h⟩ := pollLoop_busy (budget := budget) busy (xs := .ok p.rx :: xs) (ms := p.now :: ms)
    (s := { enterComplete s with
      millis := busy.map BusyPoll.now ++ p.now :: ms, t0 := t0, trace := s.trace ++ [.millis t0] })
    hbudget' hbusy hx rfl
  refine h.trans ?_
  rw [pollLoop_timeout (by exact rfl) hlen hflag (by exact hbudget'.symm ▸ hlate)]
  simp [enterComplete, hbudget, State.enter]

/-- The erase phases along good answers up to WAIT_COMPLETE, and there busy polls up to one at which the budget has
elapsed. -/
theorem erasePhases_late {tx : State → List Byte} {p wren cmd : List Byte} {ready : WaitScript} {budget : U32}
    {busy : List BusyPoll} {last : BusyPoll} {t0 : U32} {s : State} {xs : List XferAnswer} {ms : List U32}
    (hbudget : completeBudget s.cfg (opOfCode s.req.op) = some budget) (hready : ready.Good s.cfg.tReadyMs)
    (hwren : wren.length = 1) (hcmd : cmd.length = p.length) (hp : ∀ v, SameCommand s v → tx v = p)
    (hbusy : ∀ b ∈ busy, b.rx.length = 2 ∧ busyFlag (rxAt b.rx 1) = true ∧ timedOut t0 budget b.now = false)
    (hlen : last.rx.length = 2) (hflag : busyFlag (rxAt last.rx 1) = true) (hlate : timedOut t0 budget last.now = true)
    (hx : s.xfers = ready.answers ++ .ok wren :: .ok cmd :: (busy.map (fun b => .ok b.rx) ++ .ok last.rx :: xs))
    (hm : s.millis = ready.readings ++ t0 :: (busy.map BusyPoll.now ++ last.now :: ms)) :
    erasePhases tx s = .err .timeout { s with
      tbudget := budget, phase := .waitComplete, pos := .start
      cs := false, xfers := xs, millis := ms, t0 := t0, sr := rxAt last.rx 1
      trace := s.trace ++ (ready.events s.cfg ++ windowEvents [frameWREN] [wren] ++ windowEvents [p] [cmd] ++
        [.millis t0] ++ busy.flatMap (fun b => windowEvents [frameRDSR s.cfg] [b.rx] ++
          [.millis b.now, .sleep s.cfg.pollMs]) ++ windowEvents [frameRDSR s.cfg] [last.rx] ++
        [.millis last.now]) } := by
  rw [erasePhases, waitReady_script hready hx hm, andThen_ok, writeEnable,
    frame_ok (tx := frameWREN) (rx := wren) (by exact rfl) hwren, andThen_ok, andThen_ok,
    hp _ (by exact ⟨rfl, rfl, rfl, rfl, rfl⟩), frame_ok (rx := cmd) (by exact rfl) hcmd, andThen_ok,
    waitComplete_late (by exact hbudget) hbusy hlen hflag hlate (by exact rfl) (by exact rfl)]
  simp [State.enter]

/-- Settles O41: the unit erase comes to its WAIT_COMPLETE, which ends late, and the abort there adds the unit. -/
theorem eraseTimeoutLeavesTheUnitUnknown : Obligations.EraseTimeoutLeavesTheUnitUnknown := by
  intro s q i op code g budget ready wren cmd t0 busy p xs ms hrow hidle hrange hready hwren hcmd hbusy hlen hflag hlate
    hxfers hmillis
  obtain ⟨hrequest, hspec, hbudget, hreach, body, hexec, hbody⟩ := unitErases_meaning hrow
  have hvalid : validate (accept (mkRequest op q) s) = none := by
    refine (specCause_eq hrequest).symm.trans (hspec.trans ?_)
    rw [specEraseCause, if_neg (Nat.not_le.2 hrange)]
  rw [erasePhases_late (s := alignTo g (accept (mkRequest op q) s))
    (tx := fun v => addrFrame v.cfg code v.addr.toNat 0)
    (p := code :: wireAddr (BitVec.ofNat 32 (q.addr.toNat / g * g))) hbudget hready hwren hcmd
    (fun v hv => by rw [addrFrame_register, hv.addr]; rfl) hbusy hlen hflag hlate hxfers hmillis] at hbody
  refine ⟨_, hexec.trans (serve_failed hidle hvalid hbody), by simp, by simp, by simp, by simp, by simp,
    by simp [alignDown, mkRequest], by simp, by simp, by simp, by simp [SameHandle], by simp [SameOutside], ?_, ?_⟩
  · rw [respondError_unknownFlash, raise_unknownFlash]
    exact congrArg (s.unknownFlash ++ ·) (hreach _ rfl rfl)
  · simp [errorResponse, frameWREN, frameRDSR, fill]

end Sys2Proof.Machine

/-! # The operations

The family of 42_operations.md: the checks of a request (R180, R194), identification (R181, R190), reads, programs and
erases along the host's answers (R182 to R189), and the split of a multi-page write (R192). -/

namespace Sys2Proof.Machine

/-! ## How a request is answered -/

/-- A request's meaning serves its record. -/
theorem exec_eq_serve {i : Instr} {r : Request} {s : State} (hr : requestOf s.cfg i = some r) :
    ∃ body, exec i s = serve r body s := by
  cases i <;> cases hr <;> exact ⟨_, rfl⟩

/-- The checks of the request just accepted are those R180 lists. -/
theorem validate_accept {i : Instr} {r : Request} {s : State} (hr : requestOf s.cfg i = some r) :
    validate (accept r s) = specCause s.cfg s.init i := (specCause_eq hr).symm

/-- A request that fails a check is answered with the check's cause, and its body is not run. -/
theorem serve_rejected {r : Request} {body : State → Run Unit} {s : State} {c : Cause} (hidle : s.phase = .idle)
    (hfail : validate (accept r s) = some c) :
    serve r body s = .next (respondError (raise c (accept r s))) := by
  rw [serve, if_pos hidle, checked, hfail, andThen_err, conclude_err]

/-- A request that passes its checks ends as its body does. -/
theorem serve_checked {r : Request} {body : State → Run Unit} {s : State} (hidle : s.phase = .idle)
    (hvalid : validate (accept r s) = none) : serve r body s = conclude (body (accept r s)) := by
  rw [serve, if_pos hidle, checked, hvalid, andThen_ok]

/-- A request that passes its checks, and whose body then returns, is answered Ok with what the body left in the
response latch. -/
theorem serve_completed {r : Request} {body : State → Run Unit} {s u : State} (hidle : s.phase = .idle)
    (hvalid : validate (accept r s) = none) (hbody : body (accept r s) = .ok () u) :
    serve r body s = .next { u with
      phase := .idle, pos := .start, job := none, trace := u.trace ++ [okResponse u.rdata u.info] } := by
  rw [serve_checked hidle hvalid, hbody, conclude_ok]
  rfl

/-! ## Checks that fail -/

/-- Settles O24: VALIDATE raises the cause before the body of the operation begins. -/
theorem failedValidationMakesNoTraffic : Obligations.FailedValidationMakesNoTraffic := by
  intro s i r c hidle hr hcause
  obtain ⟨body, hexec⟩ := exec_eq_serve hr
  rw [hexec, serve_rejected hidle ((validate_accept hr).trans hcause)]
  simp [respondError, raise, reachNow, accept, errorResponse, State.enter, State.emit, hidle]

/-- Settles O25: both rows of reserved codes fail their one check. -/
theorem reservedCodesAnswerInvalidArgument : Obligations.ReservedCodesAnswerInvalidArgument := by
  intro s i r q b c hidle hrow
  simp only [List.mem_cons, List.not_mem_nil, or_false, Prod.mk.injEq] at hrow
  rcases hrow with ⟨rfl, rfl⟩ | ⟨rfl, rfl⟩ <;> exact failedValidationMakesNoTraffic s _ _ _ hidle rfl rfl

/-! ## Identification -/

/-- INIT with both frames answered and the expected identity. -/
theorem initBody_identified {s : State} {rx ru : List Byte} {xs : List XferAnswer}
    (hx : s.xfers = .ok rx :: .ok ru :: xs) (hrx : rx.length = 4) (hru : ru.length = 13) (hid : idOk s.cfg rx = true) :
    initBody s = .ok () { s with
      init := true, idMfr := rxAt rx 1, idType := rxAt rx 2, idCap := rxAt rx 3, uid := decodeUid ru
      cs := false, phase := .uidRead, pos := .start, xfers := xs
      trace := s.trace ++ ([.select false] ++ windowEvents [frameRDJDID s.cfg] [rx] ++
        windowEvents [frameRDUID s.cfg] [ru]) } := by
  rw [initBody, frame_ok (tx := frameRDJDID s.cfg) (s := beginInit s) hx hrx, andThen_ok]
  simp only [beginInit_cfg, hid, if_true]
  rw [frame_ok (tx := frameRDUID s.cfg) (rx := ru) (by exact rfl) hru, andThen_ok]
  simp [finishInit, cacheIdentity, decodeIdentity, beginInit, State.select, State.enter, State.emit]

/-- INIT with the first frame answered and another identity. -/
theorem initBody_mismatch {s : State} {rx : List Byte} {xs : List XferAnswer} (hx : s.xfers = .ok rx :: xs)
    (hrx : rx.length = 4) (hid : idOk s.cfg rx = false) :
    initBody s = .err .identityMismatch { s with
      init := false, cs := false, phase := .idRead, pos := .start, xfers := xs
      trace := s.trace ++ ([.select false] ++ windowEvents [frameRDJDID s.cfg] [rx]) } := by
  rw [initBody, frame_ok (tx := frameRDJDID s.cfg) (s := beginInit s) hx hrx, andThen_ok]
  simp only [beginInit_cfg, hid]
  simp [beginInit, State.select, State.enter, State.emit]

/-- Settles O26: both windows are answered, and the identity passes the check between them. -/
theorem initCachesIdentityAndUid : Obligations.InitCachesIdentityAndUid := by
  intro s q rx ru xs hidle hx hrx hru hmfr hcap
  have hexec : exec (.reqInit q) s = serve (mkRequest 0x0 q) initBody s := rfl
  rw [hexec, serve_completed hidle rfl (initBody_identified hx hrx hru ((idOk_iff _ _).2 ⟨hmfr, hcap⟩)),
    accept_cfg, frameRDUID_eq]
  simp [accept, decodeUid, frameRDJDID, fill, State.enter, State.emit, hidle]

/-- Settles O27: the check after the first window raises the cause. -/
theorem initMismatchLeavesNotInitialized : Obligations.InitMismatchLeavesNotInitialized := by
  intro s q rx xs hidle hx hrx hother
  have hexec : exec (.reqInit q) s = serve (mkRequest 0x0 q) initBody s := rfl
  have hid : idOk s.cfg rx = false := Bool.eq_false_iff.2 fun h => hother ((idOk_iff _ _).1 h)
  rw [hexec, serve_failed hidle rfl (initBody_mismatch (s := accept (mkRequest 0x0 q) s) hx hrx hid), accept_cfg]
  simp [respondError, raise, reachNow, accept, errorResponse, frameRDJDID, fill, State.enter, State.emit, hidle]

/-- However INIT's body ends, the flag INIT is set exactly where it returns, and there the expected identity is
cached (R181). -/
def InitEnds (cfg : Config) : Run Unit → Prop
  | .ok _ u => u.init = true ∧ u.cause = .none ∧ u.idMfr = cfg.expMfr ∧ u.idCap = cfg.expCap
  | .err c u => u.init = false ∧ c ≠ .none
  | .wait u => u.init = false ∧ u.phase ≠ .idle

/-- The second window of INIT, the expected identity being cached. -/
theorem uidRead_initEnds {s : State} (hinit : s.init = false) (hcause : s.cause = .none)
    (hmfr : s.idMfr = s.cfg.expMfr) (hcap : s.idCap = s.cfg.expCap) (hphase : s.phase ≠ .idle) :
    InitEnds s.cfg ((frame (frameRDUID s.cfg) s).andThen fun ru u => .ok () (finishInit ru u)) := by
  rcases frame_cases (frameRDUID s.cfg) s with ⟨ru, xs, -, -, h⟩ | ⟨x, xs, -, -, h⟩ | ⟨-, h⟩ <;> rw [h]
  · exact ⟨rfl, hcause, hmfr, hcap⟩
  · exact ⟨hinit, nofun⟩
  · exact ⟨hinit, hphase⟩

theorem initBody_ends {s : State} (hcause : s.cause = .none) : InitEnds s.cfg (initBody s) := by
  unfold initBody
  rcases frame_cases (frameRDJDID s.cfg) (beginInit s) with ⟨rx, xs, -, -, h⟩ | ⟨x, xs, -, -, h⟩ | ⟨-, h⟩ <;> rw [h]
  · rw [andThen_ok]
    split
    case isTrue hid =>
      obtain ⟨hmfr, hcap⟩ := (idOk_iff _ _).1 hid
      exact uidRead_initEnds (s := cacheIdentity rx _) rfl hcause hmfr hcap nofun
    case isFalse => exact ⟨rfl, nofun⟩
  · exact ⟨rfl, nofun⟩
  · exact ⟨rfl, nofun⟩

/-- Settles O28: INIT has no check to fail, and its body sets the flag only where it returns. -/
theorem initIsSetExactlyOnOk : Obligations.InitIsSetExactlyOnOk := by
  intro s t q hidle h
  have hexec : exec (.reqInit q) s = serve (mkRequest 0x0 q) initBody s := rfl
  have hends := initBody_ends (s := accept (mkRequest 0x0 q) s) rfl
  rw [hexec, serve_checked hidle rfl] at h
  rw [accept_cfg] at hends
  cases hbody : initBody (accept (mkRequest 0x0 q) s) <;> rw [hbody] at h hends <;> cases h
  case ok u =>
    obtain ⟨hinit, hcause, hid⟩ := hends
    simp [hinit, hcause, hid]
  case err c u =>
    obtain ⟨hinit, hne⟩ := hends
    simp [hinit, hne]
  case wait =>
    obtain ⟨hinit, hphase⟩ := hends
    simp [hinit, hphase]

/-- INFO passes its one check on an initialized handle. -/
theorem validate_info {s : State} (q : Args) (hinit : s.init = true) :
    validate (accept (mkRequest 0x9 q) s) = none :=
  (validate_accept (i := .reqInfo q) rfl).trans (by simp [specCause, hinit])

/-- INFO with its window answered. -/
theorem infoBody_answered {s : State} {ru : List Byte} {xs : List XferAnswer} (hx : s.xfers = .ok ru :: xs)
    (hru : ru.length = 13) :
    infoBody s = .ok () { s with
      uid := decodeUid ru, info := [s.idMfr, s.idType, s.idCap] ++ decodeUid ru
      cs := false, phase := .uidRead, pos := .start, xfers := xs
      trace := s.trace ++ windowEvents [frameRDUID s.cfg] [ru] } := by
  rw [infoBody, frame_ok (s := s.enter .uidRead) (tx := frameRDUID s.cfg) hx hru, andThen_ok]
  rfl

/-- INFO with its window faulted. -/
theorem infoBody_faulted {s : State} {xs : List XferAnswer} (hx : s.xfers = .fault :: xs) :
    infoBody s = .err .transportFault { s with
      cs := false, phase := .uidRead, pos := .start, xfers := xs
      trace := s.trace ++ faultEvents [frameRDUID s.cfg] [] } := by
  rw [infoBody, frame_failed (s := s.enter .uidRead) hx, andThen_err]
  rfl

/-- Settles O29: INFO's one window is answered. -/
theorem infoReturnsTripleAndFreshUid : Obligations.InfoReturnsTripleAndFreshUid := by
  intro s q ru xs hidle hinit hx hru
  have hexec : exec (.reqInfo q) s = serve (mkRequest 0x9 q) infoBody s := rfl
  rw [hexec, serve_completed hidle (validate_info q hinit) (infoBody_answered hx hru), accept_cfg, frameRDUID_eq]
  simp [accept, decodeUid, State.enter, State.emit, hidle]

/-- Settles O30: INFO's one window faults, before anything is written. -/
theorem infoFaultLeavesTheHandle : Obligations.InfoFaultLeavesTheHandle := by
  intro s q xs hidle hinit hx
  have hexec : exec (.reqInfo q) s = serve (mkRequest 0x9 q) infoBody s := rfl
  rw [hexec, serve_failed hidle (validate_info q hinit) (infoBody_faulted hx)]
  refine ⟨_, rfl, by simp [SameHandle], by simp, by simp, by simp, by simp, ?_⟩
  simp [faultEvents, errorResponse, frameRDUID_eq]

/-! ## Reads -/

/-- A register's address on the wire with a dummy byte after it (R121, R125). -/
theorem addrFrame_register_dummy (cfg : Config) (op : Byte) (a : U32) :
    addrFrame cfg op a.toNat 1 = op :: (wireAddr a ++ [cfg.filler]) := by
  rw [addrFrame, addrBytesOf_ofNat]
  simp [wireAddr, BitVec.extractLsb', fill, Nat.shiftRight_eq_div_pow]

/-- The reads of R182 and R183: their checks, and their meaning, with the header they send. Neither reaches the array
(R74). -/
theorem readHeaders_meaning {s : State} {q : Args} {i : Instr} {op : BitVec 4} {hdr : List Byte}
    (h : (i, op, hdr) ∈ readHeaders s.cfg q) :
    requestOf s.cfg i = some (mkRequest op q) ∧ specCause s.cfg s.init i = specDataCause s.cfg q ∧
    (∀ u : State, u.req = mkRequest op q → commandReach u = []) ∧
    ∃ tx : State → List Byte, exec i s = serve (mkRequest op q) (readBody tx) s ∧
      ∀ u : State, u.addr = q.addr → u.cfg = s.cfg → tx u = hdr := by
  simp only [readHeaders, List.mem_cons, List.not_mem_nil, or_false, Prod.mk.injEq] at h
  rcases h with ⟨rfl, rfl, rfl⟩ | ⟨rfl, rfl, rfl⟩
  · exact ⟨rfl, rfl, fun u hreq => by simp [commandReach, hreq, mkRequest, opOfCode], _, rfl,
      fun u haddr _ => haddr ▸ addrFrame_register u.cfg _ u.addr⟩
  · exact ⟨rfl, rfl, fun u hreq => by simp [commandReach, hreq, mkRequest, opOfCode], _, rfl,
      fun u haddr hcfg => hcfg ▸ haddr ▸ addrFrame_register_dummy u.cfg _ u.addr⟩

/-- The checks of a request with data in range pass (R180). -/
theorem specDataCause_eq_none {cfg : Config} {q : Args} (hbufp : q.bufp = true) (hlen : q.len.toNat ≠ 0)
    (hrange : q.addr.toNat + q.len.toNat ≤ cfg.chipSize) : specDataCause cfg q = none := by
  simp [specDataCause, hbufp, hlen, hrange.not_gt]

/-- The read phases along a good script: the bytes received in the second Transfer are the data. -/
theorem readBody_script {tx : State → List Byte} {hdr r1 r2 : List Byte} {w : WaitScript} {s : State}
    {xs : List XferAnswer} {ms : List U32} (hw : w.Good s.cfg.tReadyMs)
    (htx : ∀ u : State, u.addr = s.req.addr → u.cfg = s.cfg → tx u = hdr)
    (hx : s.xfers = w.answers ++ .ok r1 :: .ok r2 :: xs) (hm : s.millis = w.readings ++ ms)
    (h1 : r1.length = hdr.length) (h2 : r2.length = s.req.len.toNat) :
    readBody tx s = .ok () { s with
      addr := s.req.addr, len := s.req.len, t0 := w.t0, tbudget := s.cfg.tReadyMs, sr := rxAt w.last 1, rdata := r2
      cs := false, phase := .commandIssue, pos := .start, xfers := xs, millis := ms
      trace := s.trace ++ (w.events s.cfg ++ windowEvents [hdr, frameRx s.cfg s.req.len.toNat] [r1, r2]) } := by
  have hbody : r2.length = (frameRx s.cfg s.req.len.toNat).length := by rw [h2, frameRx, fill, List.length_replicate]
  rw [readBody, waitReady_script (s := loadAddrLen s) hw hx hm, andThen_ok, htx _ (by exact rfl) (by exact rfl)]
  rw [frame2_ok (by exact rfl) h1 (by exact hbody), andThen_ok]
  simp [loadAddrLen, State.enter]

/-- Settles O31: the wait returns, both Transfers are answered, and the latch holds what the second received. -/
theorem readsReturnTheReceivedBytes : Obligations.ReadsReturnTheReceivedBytes := by
  intro s q i op hdr w r1 r2 xs ms hrow hidle hbufp hlen hrange hw hx hm h1 h2
  obtain ⟨hr, hspec, -, tx, hexec, htx⟩ := readHeaders_meaning hrow
  have hvalid : validate (accept (mkRequest op q) s) = none :=
    (validate_accept hr).trans (hspec.trans (specDataCause_eq_none hbufp hlen hrange))
  rw [hexec, serve_completed hidle hvalid (readBody_script (s := accept (mkRequest op q) s) hw htx hx hm h1 h2)]
  simp [accept, mkRequest, frameRx, fill, State.enter, State.emit, hidle]

/-- Settles O32: the body ends as the script fails, and the abort in either phase of a read adds nothing. -/
theorem readFailureLeavesNothingUnknown : Obligations.ReadFailureLeavesNothingUnknown := by
  intro s q i op hdr f xs ms hrow hidle hcause hf hx hm
  obtain ⟨hr, -, hreach, tx, hexec, htx⟩ := readHeaders_meaning hrow
  obtain ⟨phase, t0, sr, hphase, hbody⟩ := readBody_failed (s := accept (mkRequest op q) s) hf htx hx hm
  rw [hexec, serve_failed hidle ((validate_accept hr).trans hcause) hbody]
  refine ⟨_, rfl, by simp, by simp, by simp, by simp, by simp, by simp, by simp, by simp, by simp [SameHandle],
    by simp [SameOutside], ?_, ?_⟩
  · rw [respondError_unknownFlash, raise_unknownFlash]
    refine (congrArg (s.unknownFlash ++ ·) ?_).trans (List.append_nil _)
    rcases hphase with rfl | rfl
    · rfl
    · exact hreach _ rfl
  · simp [errorResponse, mkRequest, frameRx, fill]

/-! ## Programs and erases of one command -/

/-- Settles O33: the program phases run along the script, with the whole of WDATA as payload. -/
theorem writePageProgramsInOneFrame : Obligations.WritePageProgramsInOneFrame := by
  intro s q c xs ms hidle hbufp _ hlen hrange hpage hfits hc hx hm
  have hexec : exec (.reqWpage q) s =
    serve (mkRequest 0x3 q) (fun u => programPhases (fun v => v.req.wdata) (loadAddrLen u)) s := rfl
  have hvalid : validate (accept (mkRequest 0x3 q) s) = none := by
    refine (validate_accept (i := .reqWpage q) rfl).trans ?_
    simp [specCause, specPageCause, hbufp, hlen, hrange.not_gt, hpage.not_gt, hfits.not_gt]
  rw [hexec, serve_completed hidle hvalid (programPhases_script (s := loadAddrLen (accept (mkRequest 0x3 q) s)) rfl hc
    (addrFrame_register _ _ _) (fun v hv => congrArg (·.wdata) hv.req) hx hm)]
  simp [loadAddrLen, accept, mkRequest, State.enter, State.emit, hidle]

/-- Settles O36: the erase phases run along the script, with the frame of the aligned address. -/
theorem unitErasesEraseTheAlignedUnit : Obligations.UnitErasesEraseTheAlignedUnit := by
  intro s q i op code g budget c xs ms hrow hidle hrange hc hx hm
  obtain ⟨hr, hspec, hbudget, -, body, hexec, hbody⟩ := unitErases_meaning hrow
  have hvalid : validate (accept (mkRequest op q) s) = none := by
    refine (validate_accept hr).trans (hspec.trans ?_)
    rw [specEraseCause, if_neg (Nat.not_le.2 hrange)]
  rw [hexec, serve_completed hidle hvalid (hbody.trans (erasePhases_script hbudget hc
    (fun v hv => by rw [addrFrame_register, hv.addr]; rfl) hx hm))]
  simp [alignTo, alignDown, accept, mkRequest, State.enter, State.emit, hidle]

/-- Settles O37: ECHIP has no check to fail, and its frame no address. -/
theorem chipEraseSendsOneByte : Obligations.ChipEraseSendsOneByte := by
  intro s q c xs ms hidle hc hx hm
  have hexec : exec (.reqEchip q) s = serve (mkRequest 0x8 q) (erasePhases fun _ => frameCE) s := rfl
  rw [hexec, serve_completed hidle rfl (erasePhases_script (tx := fun _ => frameCE) (p := frameCE)
    (s := accept (mkRequest 0x8 q) s) rfl hc (fun _ _ => rfl) hx hm)]
  simp [accept, mkRequest, frameCE, State.enter, State.emit, hidle]

/-! ## The split of a multi-page write -/

@[simp] theorem chunks_zero (cfg : Config) (fuel a : Nat) : chunks cfg fuel a 0 = [] := by
  cases fuel <;> rfl

/-- Any fuel for what remains is enough: a chunk has at least one byte. -/
theorem chunks_fuel {cfg : Config} (hpage : 1 ≤ cfg.pageSize) {fuel fuel' a rem : Nat} (h : rem ≤ fuel)
    (h' : rem ≤ fuel') : chunks cfg fuel a rem = chunks cfg fuel' a rem := by
  induction fuel generalizing fuel' a rem with
  | zero => simp [Nat.le_zero.1 h]
  | succ fuel ih =>
    cases rem with
    | zero => simp
    | succ rem =>
      obtain ⟨fuel', rfl⟩ := Nat.exists_eq_add_of_le' (Nat.one_le_of_lt h')
      obtain ⟨hpos, -, -⟩ := chunkLen_bounds cfg a (rem + 1) hpage (by omega)
      simp only [chunks, Nat.add_one_ne_zero, if_false]
      rw [ih (fuel' := fuel') (by omega) (by omega)]

/-- The recurrence of R192: the first chunk, then the chunks of the rest. -/
theorem chunks_cons {cfg : Config} (hpage : 1 ≤ cfg.pageSize) {a rem : Nat} (hrem : 1 ≤ rem) :
    chunks cfg rem a rem = (a, chunkLen cfg a rem) ::
      chunks cfg (rem - chunkLen cfg a rem) (a + chunkLen cfg a rem) (rem - chunkLen cfg a rem) := by
  obtain ⟨hpos, -, -⟩ := chunkLen_bounds cfg a rem hpage hrem
  obtain ⟨fuel, rfl⟩ := Nat.exists_eq_add_of_le' hrem
  simp only [chunks, Nat.add_one_ne_zero, if_false]
  rw [chunks_fuel hpage (by omega) le_rfl]

/-- A chunk that is not the last takes what its page has left. -/
theorem chunkLen_of_rest {cfg : Config} {a rem : Nat} (h : 0 < rem - chunkLen cfg a rem) :
    chunkLen cfg a rem = cfg.pageSize - a % cfg.pageSize := by
  unfold chunkLen at h ⊢
  omega

section
variable {cfg : Config} (hpage : 1 ≤ cfg.pageSize)
include hpage

/-- What remains after a chunk is nothing, or begins on a page. -/
theorem chunk_rest (a rem : Nat) :
    rem - chunkLen cfg a rem = 0 ∨ (a + chunkLen cfg a rem) % cfg.pageSize = 0 := by
  refine (Nat.eq_zero_or_pos _).imp_right fun hpos => ?_
  have hmod : a % cfg.pageSize < cfg.pageSize := Nat.mod_lt a hpage
  rw [chunkLen_of_rest hpos, ← Nat.mod_add_mod, Nat.add_sub_cancel' hmod.le, Nat.mod_self]

/-- Induction along the recurrence of R192. -/
theorem chunks_induct {P : Nat → Nat → Prop} (nil : ∀ a, P a 0)
    (cons : ∀ a rem, 1 ≤ rem → P (a + chunkLen cfg a rem) (rem - chunkLen cfg a rem) → P a rem) (a rem : Nat) :
    P a rem := by
  induction rem using Nat.strong_induction_on generalizing a with
  | _ rem ih =>
    rcases Nat.eq_zero_or_pos rem with rfl | hrem
    · exact nil a
    obtain ⟨hpos, -, -⟩ := chunkLen_bounds cfg a rem hpage hrem
    exact cons a rem hrem (ih _ (by omega) _)

/-- (a): the chunks are all of the write. -/
theorem chunks_sum (a rem : Nat) : ((chunks cfg rem a rem).map Prod.snd).sum = rem := by
  induction a, rem using chunks_induct hpage with
  | nil a => simp
  | cons a rem hrem ih =>
    obtain ⟨-, hle, -⟩ := chunkLen_bounds cfg a rem hpage hrem
    rw [chunks_cons hpage hrem, List.map_cons, List.sum_cons, ih]
    omega

/-- (b): each chunk is in one page. -/
theorem chunks_pageFits (a rem : Nat) : ∀ p ∈ chunks cfg rem a rem, pageFits cfg p.1 p.2 = true := by
  induction a, rem using chunks_induct hpage with
  | nil a => simp
  | cons a rem hrem ih =>
    obtain ⟨-, -, -, -, -, hfits⟩ := chunkLenFitsThePage cfg a rem hpage hrem
    rw [chunks_cons hpage hrem]
    exact List.forall_mem_cons.2 ⟨hfits, ih⟩

/-- (c), for a write that begins on a page: every chunk does. -/
theorem chunks_aligned {a rem : Nat} (ha : a % cfg.pageSize = 0) :
    ∀ p ∈ chunks cfg rem a rem, p.1 % cfg.pageSize = 0 := by
  induction a, rem using chunks_induct hpage with
  | nil a => simp
  | cons a rem hrem ih =>
    rw [chunks_cons hpage hrem]
    refine List.forall_mem_cons.2 ⟨ha, ?_⟩
    rcases chunk_rest hpage a rem with hzero | hnext
    · simp [hzero]
    · exact ih hnext

/-- (d), for a write that begins on a page: every chunk but the last fills it. -/
theorem chunks_full {a rem : Nat} (ha : a % cfg.pageSize = 0) :
    ∀ p ∈ (chunks cfg rem a rem).dropLast, p.2 = cfg.pageSize := by
  induction a, rem using chunks_induct hpage with
  | nil a => simp
  | cons a rem hrem ih =>
    rw [chunks_cons hpage hrem]
    rcases Nat.eq_zero_or_pos (rem - chunkLen cfg a rem) with hzero | hpos
    · simp [hzero]
    have hnext := (chunk_rest hpage a rem).resolve_left hpos.ne'
    have hfull : chunkLen cfg a rem = cfg.pageSize := by rw [chunkLen_of_rest hpos, ha, Nat.sub_zero]
    rw [List.dropLast_cons_of_ne_nil (by simp [chunks_cons hpage hpos])]
    exact List.forall_mem_cons.2 ⟨hfull, ih hnext⟩

/-- (e): the number of chunks, a ceiling. -/
theorem chunks_length {a rem : Nat} (h : 1 ≤ rem ∨ a % cfg.pageSize = 0) :
    (chunks cfg rem a rem).length = (a % cfg.pageSize + rem + cfg.pageSize - 1) / cfg.pageSize := by
  induction a, rem using chunks_induct hpage with
  | nil a =>
    have ha : a % cfg.pageSize = 0 := h.resolve_left (by omega)
    rw [ha, chunks_zero, List.length_nil, Nat.div_eq_of_lt (by omega)]
  | cons a rem hrem ih =>
    have hmod : a % cfg.pageSize < cfg.pageSize := Nat.mod_lt a hpage
    rw [chunks_cons hpage hrem, List.length_cons]
    rcases Nat.eq_zero_or_pos (rem - chunkLen cfg a rem) with hzero | hpos
    · have hfits : a % cfg.pageSize + rem ≤ cfg.pageSize := by
        unfold chunkLen at hzero
        omega
      rw [hzero, chunks_zero, List.length_nil]
      exact (Nat.div_eq_of_lt_le (by omega) (by omega)).symm
    · have hnext := (chunk_rest hpage a rem).resolve_left hpos.ne'
      have hlen := chunkLen_of_rest hpos
      rw [ih (.inr hnext), hnext, ← Nat.add_div_right _ hpage, hlen]
      congr 1
      omega

/-- The chunks follow one another from `a`, with the lengths that `chunkLen` gives. -/
theorem chunks_getElem (a rem k : Nat) (hk : k < (chunks cfg rem a rem).length) :
    ((chunks cfg rem a rem)[k]).1 = a + (((chunks cfg rem a rem).take k).map Prod.snd).sum ∧
    ((chunks cfg rem a rem)[k]).2 = chunkLen cfg ((chunks cfg rem a rem)[k]).1
      (rem - (((chunks cfg rem a rem).take k).map Prod.snd).sum) := by
  induction a, rem using chunks_induct hpage generalizing k with
  | nil a => simp at hk
  | cons a rem hrem ih =>
    simp only [chunks_cons hpage hrem] at hk ⊢
    cases k with
    | zero => simp
    | succ k =>
      obtain ⟨hfst, hsnd⟩ := ih k (by simpa using hk)
      simp only [List.getElem_cons_succ, List.take_succ_cons, List.map_cons, List.sum_cons]
      exact ⟨by rw [hfst, Nat.add_assoc], by rw [hsnd, Nat.sub_sub]⟩

/-- (f): the pieces of the data, in order, are the data from the first chunk on. -/
theorem chunks_data (d : List Byte) (start a rem : Nat) (hstart : start ≤ a) :
    ((chunks cfg rem a rem).map fun p => (d.drop (p.1 - start)).take p.2).flatten = (d.drop (a - start)).take rem := by
  induction a, rem using chunks_induct hpage with
  | nil a => simp
  | cons a rem hrem ih =>
    obtain ⟨-, hle, -⟩ := chunkLen_bounds cfg a rem hpage hrem
    rw [chunks_cons hpage hrem, List.map_cons, List.flatten_cons, ih (by omega)]
    have hdrop : d.drop (a + chunkLen cfg a rem - start) = (d.drop (a - start)).drop (chunkLen cfg a rem) := by
      rw [List.drop_drop]
      congr 1
      omega
    rw [hdrop, ← List.take_add, Nat.add_sub_cancel' hle]

end

/-- Settles O35, along the recurrence: after the first chunk the rest is a write that begins on a page. -/
theorem splitLaw : Obligations.SplitLaw := by
  intro cfg a d hpage hd
  have hcons := chunks_cons hpage (a := a) hd
  have hchunk := chunks_getElem hpage a d.length
  have hrest := chunk_rest hpage a d.length
  refine ⟨chunks_sum hpage a _, chunks_pageFits hpage a _, ?_, ?_, chunks_length hpage (.inl hd), ?_, ?_, ?_, ?_⟩
  · rw [hcons, List.tail_cons]
    rcases hrest with hzero | hnext
    · simp [hzero]
    · exact chunks_aligned hpage hnext
  · rw [hcons, List.tail_cons]
    rcases hrest with hzero | hnext
    · simp [hzero]
    · exact chunks_full hpage hnext
  · rw [hcons]
    rfl
  · intro k hk
    rw [(hchunk (k + 1) hk).1, (hchunk k _).1, List.take_succ_eq_append_getElem (Nat.lt_of_succ_lt hk),
      List.map_append, List.sum_append, List.map_singleton, List.sum_singleton, Nat.add_assoc]
  · exact fun k hk => (hchunk k hk).2
  · rw [chunks_data hpage d a a _ le_rfl]
    simp

/-! ## WRITE along its chunks -/

/-- A split write whose registers hold what its checks let through: WDATA has LEN bytes, and the cursor is in range. -/
structure Splitting (s : State) : Prop where
  valid : s.cfg.Valid
  isWrite : opOfCode s.req.op = .write
  data : s.req.wdata.length = s.req.len.toNat
  cursor : CursorInv s

/-- The pieces still to be programmed, from the cursor on. -/
def remaining (s : State) : List (Nat × List Byte) :=
  (chunks s.cfg s.rem.toNat s.addr.toNat s.rem.toNat).map fun p =>
    (p.1, (s.req.wdata.drop (p.1 - s.req.addr.toNat)).take p.2)

/-- Where the split begins, everything remains (R192). -/
theorem remaining_beginSplit {s : State} (hdata : s.req.wdata.length = s.req.len.toNat) :
    remaining (beginSplit s) = chunkPieces s.cfg s.req.addr.toNat s.req.wdata := by
  simp [remaining, chunkPieces, hdata]

theorem splitting_beginSplit {s : State} (hvalid : s.cfg.Valid) (hop : opOfCode s.req.op = .write)
    (hdata : s.req.wdata.length = s.req.len.toNat) (hrange : s.req.addr.toNat + s.req.len.toNat ≤ s.cfg.chipSize) :
    Splitting (beginSplit s) :=
  ⟨hvalid, hop, hdata, hrange, rfl, Nat.zero_add _⟩

/-- While something remains, the next chunk is one of the cursor's. -/
theorem Splitting.chunk {s : State} (hs : Splitting s) (hrem : s.rem ≠ 0) : ChunkInv (nextChunk s) :=
  ⟨hs.cursor, Nat.one_le_iff_ne_zero.2 fun h => hrem ((eq_zero_iff_toNat _).2 h), nextChunk_len_toNat s⟩

/-- Row 19 of R164 after a chunk: the split goes on. -/
theorem Splitting.advance {s : State} (hs : Splitting s) (hrem : s.rem ≠ 0) : Splitting (advance (nextChunk s)) :=
  ⟨hs.valid, hs.isWrite, hs.data, advance_cursorInv hs.valid (hs.chunk hrem)⟩

/-- Where nothing remains, the cursor is at the end. -/
theorem Splitting.ended {s : State} (hs : Splitting s) (hrem : s.rem = 0) :
    s.off = s.req.len ∧ s.addr = s.req.addr + s.req.len := by
  obtain ⟨hrange, haddr, hoff⟩ := hs.cursor
  obtain ⟨-, -, -, -, hchip, -⟩ := hs.valid
  have hzero : s.rem.toNat = 0 := (eq_zero_iff_toNat _).1 hrem
  refine ⟨BitVec.eq_of_toNat_eq (by omega), BitVec.eq_of_toNat_eq ?_⟩
  rw [BitVec.toNat_add]
  omega

/-- A chunk's data has the chunk's length. -/
theorem chunkData_length {s : State} (hs : Splitting s) (hrem : s.rem ≠ 0) :
    (chunkData (nextChunk s)).length = (nextChunk s).len.toNat := by
  obtain ⟨⟨-, -, hoff⟩, hpos, hlen⟩ := hs.chunk hrem
  obtain ⟨hpage, -⟩ := hs.valid
  obtain ⟨-, hle, -⟩ := chunkLen_bounds s.cfg s.addr.toNat s.rem.toNat hpage hpos
  have hdata := hs.data
  simp only [nextChunk_cfg, nextChunk_addr, nextChunk_rem, nextChunk_off, nextChunk_req] at hoff hlen
  rw [chunkData, List.length_take, List.length_drop, nextChunk_req, nextChunk_off]
  omega

/-- What remains, where it is not nothing, is the next chunk at the cursor and what remains after it. -/
theorem remaining_cons {s : State} (hs : Splitting s) (hrem : s.rem ≠ 0) :
    remaining s = (s.addr.toNat, chunkData (nextChunk s)) :: remaining (advance (nextChunk s)) := by
  obtain ⟨⟨hrange, haddr, hoff⟩, hpos, hlen⟩ := hs.chunk hrem
  obtain ⟨hpage, -, -, -, hchip, -⟩ := hs.valid
  obtain ⟨-, hle, -⟩ := chunkLen_bounds s.cfg s.addr.toNat s.rem.toNat hpage hpos
  simp only [nextChunk_cfg, nextChunk_addr, nextChunk_rem, nextChunk_off, nextChunk_req] at hrange haddr hoff hpos hlen
  have hsub : (nextChunk s).len ≤ s.rem := by rw [BitVec.le_def, hlen]; exact hle
  have hskip : s.addr.toNat - s.req.addr.toNat = s.off.toNat := by omega
  have hnext : (advance (nextChunk s)).addr.toNat = s.addr.toNat + chunkLen s.cfg s.addr.toNat s.rem.toNat := by
    rw [advance_addr, BitVec.toNat_add, hlen, nextChunk_addr]
    omega
  have hleft : (advance (nextChunk s)).rem.toNat = s.rem.toNat - chunkLen s.cfg s.addr.toNat s.rem.toNat := by
    rw [advance_rem, nextChunk_rem, BitVec.toNat_sub_of_le hsub, hlen]
  rw [remaining, chunks_cons hpage hpos, List.map_cons, remaining, hnext, hleft, hskip, chunkData, hlen]
  rfl

/-- The first of the remaining pieces is the next chunk, at the cursor. -/
theorem remaining_eq_cons {s : State} {piece : Nat × List Byte} {rest : List (Nat × List Byte)} (hs : Splitting s)
    (h : remaining s = piece :: rest) :
    s.rem ≠ 0 ∧ piece = (s.addr.toNat, chunkData (nextChunk s)) ∧
      rest = remaining (advance (nextChunk s)) := by
  have hrem : s.rem ≠ 0 := by
    intro hzero
    simp [remaining, hzero] at h
  rw [remaining_cons hs hrem] at h
  obtain ⟨hpiece, hrest⟩ := List.cons.inj h
  exact ⟨hrem, hpiece.symm, hrest.symm⟩

theorem rem_eq_zero_of_remaining {s : State} (hs : Splitting s) (h : remaining s = []) : s.rem = 0 := by
  by_contra hrem
  rw [remaining_cons hs hrem] at h
  cases h

/-- Nothing but registers of the split, of its waits and of the bus, the host's answers and the trace differs. -/
inductive AfterChunks (s : State) (xs : List XferAnswer) (ms : List U32) (trace : List Event) : State → Prop
  | mk (addr len rem off t0 tbudget : U32) (sr : Byte) (cs : Bool) (phase : Phase) (pos : Pos) :
    AfterChunks s xs ms trace { s with
      addr := addr, len := len, rem := rem, off := off, t0 := t0, tbudget := tbudget, sr := sr, cs := cs
      phase := phase, pos := pos, xfers := xs, millis := ms, trace := trace }

theorem AfterChunks.trans {s u v : State} {xs xs' : List XferAnswer} {ms ms' : List U32} {trace trace' : List Event}
    (h : AfterChunks s xs ms trace u) (h' : AfterChunks u xs' ms' trace' v) : AfterChunks s xs' ms' trace' v := by
  cases h; cases h'; constructor

/-- The state after the next chunk was programmed along the script `c`, with the answers `xs` and `ms` to come. -/
def afterChunk (c : CommandScript) (xs : List XferAnswer) (ms : List U32) (s : State) : State :=
  { advance (nextChunk s) with
    tbudget := s.cfg.tPpMs, t0 := c.complete.t0, sr := rxAt c.complete.last 1
    cs := false, xfers := xs, millis := ms
    trace := s.trace ++ c.events s.cfg (chunkParts s.cfg s.addr.toNat (chunkData (nextChunk s))) }

theorem afterChunk_changes (c : CommandScript) (xs : List XferAnswer) (ms : List U32) (s : State) :
    AfterChunks s xs ms (s.trace ++ c.events s.cfg (chunkParts s.cfg s.addr.toNat (chunkData (nextChunk s))))
      (afterChunk c xs ms s) :=
  ⟨_, _, _, _, _, _, _, _, _, _⟩

theorem splitting_afterChunk {s : State} (hs : Splitting s) (hrem : s.rem ≠ 0) (c : CommandScript)
    (xs : List XferAnswer) (ms : List U32) : Splitting (afterChunk c xs ms s) := by
  obtain ⟨hvalid, hop, hdata, hcursor⟩ := hs.advance hrem
  exact ⟨hvalid, hop, hdata, hcursor⟩

/-- WRITE's command has the budget of Page Program. -/
theorem Splitting.completeBudget {s : State} (hs : Splitting s) :
    completeBudget s.cfg (opOfCode s.req.op) = some s.cfg.tPpMs := by
  rw [hs.isWrite]
  rfl

/-- The chunk's data is read from registers that its phases leave alone. -/
theorem chunkData_of_sameCommand {s v : State} (h : SameCommand s v) : chunkData v = chunkData s := by
  obtain ⟨hreq, -, -, hlen, hoff⟩ := h
  rw [chunkData, hreq, hlen, hoff, chunkData]

/-- One round of the splitter's loop along a good script. -/
theorem splitLoop_round {s : State} {c : CommandScript} {xs : List XferAnswer} {ms : List U32} (hs : Splitting s)
    (hrem : s.rem ≠ 0) (hc : c.Good s.cfg s.cfg.tPpMs (chunkParts s.cfg s.addr.toNat (chunkData (nextChunk s))))
    (hx : s.xfers = c.answers ++ xs) (hm : s.millis = c.readings ++ ms) (bound : Nat) :
    splitLoop (bound + 1) s = splitLoop bound (afterChunk c xs ms s) := by
  rw [splitLoop, if_neg hrem, programPhases_script (s := nextChunk s) hs.completeBudget hc rfl
    (fun _ => chunkData_of_sameCommand) hx hm, andThen_ok]
  rfl

/-- The splitter's loop along good scripts of its first pieces, which are then programmed. -/
theorem splitLoop_chunks {cfg : Config} {done rest : List (Nat × List Byte)} {cs : List CommandScript}
    (hgood : WriteScript.Good cfg done cs) {s : State} {xs : List XferAnswer} {ms : List U32} (hs : Splitting s)
    (hcfg : s.cfg = cfg) (hpieces : remaining s = done ++ rest)
    (hx : s.xfers = cs.flatMap CommandScript.answers ++ xs) (hm : s.millis = cs.flatMap CommandScript.readings ++ ms)
    (bound : Nat) :
    ∃ u, splitLoop (bound + cs.length) s = splitLoop bound u ∧ Splitting u ∧ remaining u = rest ∧
      AfterChunks s xs ms (s.trace ++ writeEvents cfg done cs) u := by
  unfold WriteScript.Good at hgood
  induction hgood generalizing s with
  | nil =>
    obtain rfl : s.xfers = xs := hx
    obtain rfl : s.millis = ms := hm
    refine ⟨s, rfl, hs, hpieces, ?_⟩
    simp only [writeEvents, List.zipWith_nil_left, List.flatten_nil, List.append_nil]
    exact ⟨s.addr, s.len, s.rem, s.off, s.t0, s.tbudget, s.sr, s.cs, s.phase, s.pos⟩
  | @cons piece c done cs hc _ ih =>
    subst hcfg
    obtain ⟨hrem, rfl, hrest⟩ := remaining_eq_cons hs hpieces
    rw [List.flatMap_cons, List.append_assoc] at hx hm
    obtain ⟨u, hloop, hu, hremaining, hafter⟩ := ih (splitting_afterChunk hs hrem c _ _) rfl hrest.symm rfl rfl
    refine ⟨u, ?_, hu, hremaining, ?_⟩
    · rw [List.length_cons, ← Nat.add_assoc, splitLoop_round hs hrem hc hx hm, hloop]
    · have htrans := (afterChunk_changes c _ _ s).trans hafter
      simpa [afterChunk, writeEvents] using htrans

/-- Each script of a chunk has a reading of the counter. -/
theorem length_le_readings (cs : List CommandScript) : cs.length ≤ (cs.flatMap CommandScript.readings).length := by
  induction cs with
  | nil => simp
  | cons c cs ih =>
    simp only [List.flatMap_cons, List.length_append, List.length_cons, CommandScript.readings, WaitScript.readings]
    omega

/-- WRITE passes its checks with data in range. -/
theorem validate_write {s : State} {q : Args} (hbufp : q.bufp = true) (hlen : q.len.toNat ≠ 0)
    (hrange : q.addr.toNat + q.len.toNat ≤ s.cfg.chipSize) : validate (accept (mkRequest 0x4 q) s) = none :=
  (validate_accept (i := .reqWrite q) rfl).trans (specDataCause_eq_none hbufp hlen hrange)

/-- WRITE after the chunks that the scripts `cs` program, for every bound the splitter's loop then has left. -/
theorem write_chunks {s : State} {q : Args} {done rest : List (Nat × List Byte)} {cs : List CommandScript}
    {xs : List XferAnswer} {ms : List U32} {bound : Nat} (hvalid : s.cfg.Valid) (hdata : q.wdata.length = q.len.toNat)
    (hrange : q.addr.toNat + q.len.toNat ≤ s.cfg.chipSize)
    (hpieces : chunkPieces s.cfg q.addr.toNat q.wdata = done ++ rest) (hgood : WriteScript.Good s.cfg done cs)
    (hx : s.xfers = cs.flatMap CommandScript.answers ++ xs) (hm : s.millis = cs.flatMap CommandScript.readings ++ ms)
    (hbound : s.millis.length + 1 = bound + cs.length) :
    ∃ u, splitLoop (s.millis.length + 1) (beginSplit (accept (mkRequest 0x4 q) s)) = splitLoop bound u ∧ Splitting u ∧
      remaining u = rest ∧ AfterChunks (accept (mkRequest 0x4 q) s) xs ms
        (s.trace ++ [.accept (mkRequest 0x4 q)] ++ writeEvents s.cfg done cs) u := by
  have hsplit : Splitting (beginSplit (accept (mkRequest 0x4 q) s)) := splitting_beginSplit hvalid rfl hdata hrange
  have hall : remaining (beginSplit (accept (mkRequest 0x4 q) s)) = done ++ rest :=
    (remaining_beginSplit hdata).trans hpieces
  obtain ⟨u, hloop, hu, hremaining, hafter⟩ := splitLoop_chunks hgood hsplit rfl hall hx hm bound
  refine ⟨u, hbound ▸ hloop, hu, hremaining, ?_⟩
  cases hafter
  exact ⟨_, _, _, _, _, _, _, _, _, _⟩

/-- The events of one piece more. -/
theorem writeEvents_concat {cfg : Config} {done : List (Nat × List Byte)} {cs : List CommandScript}
    (hgood : WriteScript.Good cfg done cs) (piece : Nat × List Byte) (c : CommandScript) :
    writeEvents cfg (done ++ [piece]) (cs ++ [c]) =
      writeEvents cfg done cs ++ c.events cfg (chunkParts cfg piece.1 piece.2) := by
  rw [writeEvents, List.zipWith_append hgood.length_eq]
  simp [writeEvents]

/-- Scripts that fit a list of pieces, the last of each taken off. -/
theorem writeScriptGood_concat {cfg : Config} {pieces : List (Nat × List Byte)} {cs : List CommandScript}
    {c : CommandScript} (h : WriteScript.Good cfg pieces (cs ++ [c])) :
    ∃ done piece, pieces = done ++ [piece] ∧ WriteScript.Good cfg done cs ∧
      c.Good cfg cfg.tPpMs (chunkParts cfg piece.1 piece.2) := by
  have hdone := List.forall₂_take_append _ _ _ h
  have hlast := List.forall₂_drop_append _ _ _ h
  obtain ⟨piece, rest, hc, hnil, hpiece⟩ := List.forall₂_cons_right_iff.1 hlast
  obtain rfl := List.forall₂_nil_right_iff.1 hnil
  exact ⟨_, piece, by rw [← hpiece, List.take_append_drop], hdone, hc⟩

/-- The last piece of a split: after it the loop returns, with the cursor at the end. -/
theorem splitLoop_last {s : State} {piece : Nat × List Byte} {c : CommandScript} {xs : List XferAnswer} {ms : List U32}
    (hs : Splitting s) (hpieces : remaining s = [piece])
    (hc : c.Good s.cfg s.cfg.tPpMs (chunkParts s.cfg piece.1 piece.2)) (hx : s.xfers = c.answers ++ xs)
    (hm : s.millis = c.readings ++ ms) (bound : Nat) :
    splitLoop (bound + 2) s = .ok () { s with
      addr := s.req.addr + s.req.len, len := BitVec.ofNat 32 piece.2.length, rem := 0, off := s.req.len
      t0 := c.complete.t0, tbudget := s.cfg.tPpMs, sr := rxAt c.complete.last 1
      cs := false, phase := .split, pos := .start, xfers := xs, millis := ms
      trace := s.trace ++ c.events s.cfg (chunkParts s.cfg piece.1 piece.2) } := by
  obtain ⟨hrem, rfl, hnil⟩ := remaining_eq_cons hs hpieces
  have hsplit := splitting_afterChunk hs hrem c xs ms
  have hzero : (afterChunk c xs ms s).rem = 0 := rem_eq_zero_of_remaining hsplit hnil.symm
  obtain ⟨hoff, haddr⟩ := hsplit.ended hzero
  have hlen : (nextChunk s).len = BitVec.ofNat 32 (chunkData (nextChunk s)).length := by
    rw [chunkData_length hs hrem, BitVec.ofNat_toNat, BitVec.setWidth_eq]
  rw [splitLoop_round hs hrem hc hx hm, splitLoop, if_pos hzero]
  simp only [afterChunk, advance_addr, advance_off, advance_rem, advance_req, nextChunk_req] at hzero hoff haddr
  simp only [afterChunk, advance, State.enter, hzero, hoff, haddr, ← hlen]
  rfl

/-- Settles O34: the loop programs all pieces but the last, and then the last. -/
theorem writeProgramsEveryChunk : Obligations.WriteProgramsEveryChunk := by
  intro s q cs c xs ms hvalid hidle hbufp hdata hlen hrange hgood hx hm
  have hexec : exec (.reqWrite q) s = serve (mkRequest 0x4 q)
    (fun u => splitLoop (u.millis.length + 1) (beginSplit u)) s := rfl
  obtain ⟨done, piece, hpieces, hdone, hc⟩ := writeScriptGood_concat hgood
  simp only [List.flatMap_append, List.flatMap_singleton, List.append_assoc] at hx hm
  have hbound : cs.length + 1 ≤ s.millis.length := by
    have := length_le_readings cs
    simp only [hm, List.length_append, CommandScript.readings, WaitScript.readings, List.length_cons]
    omega
  obtain ⟨u, hloop, hu, hremaining, hafter⟩ := write_chunks (bound := s.millis.length - cs.length - 1 + 2)
    hvalid hdata hrange hpieces hdone hx hm (by omega)
  cases hafter
  rw [splitLoop_last hu hremaining hc (by exact rfl) (by exact rfl)] at hloop
  rw [hexec, serve_completed hidle (validate_write hbufp hlen hrange) hloop]
  simp [hpieces, writeEvents_concat hdone, accept, mkRequest, State.enter, State.emit, hidle]

/-- A piece of a split that fails ends the loop in the phase where it fails. -/
theorem splitLoop_failed {s : State} {f : FailedCommand} {xs : List XferAnswer} {ms : List U32} (hs : Splitting s)
    (hrem : s.rem ≠ 0)
    (hf : f.Fails s.cfg s.cfg.tPpMs (chunkParts s.cfg s.addr.toNat (chunkData (nextChunk s))))
    (hx : s.xfers = f.answers ++ xs) (hm : s.millis = f.readings ++ ms) (bound : Nat) :
    ∃ tb t0 sr, splitLoop (bound + 1) s = .err f.cause { nextChunk s with
      tbudget := tb, phase := f.phase, pos := .start
      cs := false, xfers := xs, millis := ms, t0 := t0, sr := sr
      trace := s.trace ++ f.events s.cfg (chunkParts s.cfg s.addr.toNat (chunkData (nextChunk s))) } := by
  obtain ⟨tb, t0, sr, h⟩ := programPhases_failed (s := nextChunk s) hs.completeBudget hf rfl
    (fun _ => chunkData_of_sameCommand) hx hm
  exact ⟨tb, t0, sr, by rw [splitLoop, if_neg hrem, h, andThen_err]; rfl⟩

/-- Settles O45: the loop programs the pieces before, and ends at this one as the script fails; the abort there adds
what the chunk's command could reach. -/
theorem writeFailureLeavesOnlyItsChunkUnknown : Obligations.WriteFailureLeavesOnlyItsChunkUnknown := by
  intro s q done piece todo cs f xs ms hvalid hidle hbufp hdata hlen hrange hpieces hdone hf hx hm
  have hexec : exec (.reqWrite q) s = serve (mkRequest 0x4 q)
    (fun u => splitLoop (u.millis.length + 1) (beginSplit u)) s := rfl
  rw [List.append_assoc] at hx hm
  have hbound : cs.length ≤ s.millis.length := by
    have := length_le_readings cs
    simp only [hm, List.length_append]
    omega
  obtain ⟨u, hloop, hu, hremaining, hafter⟩ := write_chunks (bound := s.millis.length - cs.length + 1)
    hvalid hdata hrange hpieces hdone hx hm (by omega)
  obtain ⟨hrem, rfl, -⟩ := remaining_eq_cons hu hremaining
  have hreach : ∀ v, SameCommand (nextChunk u) v →
      commandReach v = [⟨u.addr.toNat, (chunkData (nextChunk u)).length⟩] := by
    rintro v ⟨hreq, -, haddr, hvlen, -⟩
    simp [commandReach, hreq, haddr, hvlen, hu.isWrite, chunkData_length hu hrem]
  have hchunk := chunkData_length hu hrem
  cases hafter
  obtain ⟨tb, t0, sr, hfailed⟩ := splitLoop_failed hu hrem hf (by exact rfl) (by exact rfl)
    (s.millis.length - cs.length)
  rw [hexec, serve_failed hidle (validate_write hbufp hlen hrange) (hloop.trans hfailed)]
  refine ⟨_, rfl, by simp, by simp, by simp, by simp, by simp, by simpa using hchunk.symm, by simp, by simp,
    by simp [SameHandle], by simp [SameOutside], ?_, ?_⟩
  · rw [respondError_unknownFlash, raise_unknownFlash]
    exact congrArg (s.unknownFlash ++ ·) (reachNow_failed rfl rfl (hreach _ ⟨rfl, rfl, rfl, rfl, rfl⟩))
  · simp [errorResponse]

end Sys2Proof.Machine

/-! # Exceptions

The family of 60_exceptions.md: the meanings answer (R230), an operation makes one response (R230), a poll that faults
(R233), chip-select after an operation (R234), and another block's window (R245). -/

namespace Sys2Proof.Machine

/-! ## Steps that stop, and meanings that answer -/

/-- Settles O17: in IDLE a meaning answers the state the phase machine comes to, and otherwise the state it is in. -/
theorem everyMeaningAnswersANextState : Obligations.EveryMeaningAnswersANextState := by
  intro i s
  by_cases hidle : s.phase = .idle
  · obtain ⟨-, t, hexec, -⟩ := exec_eq_ticks i hidle
    exact ⟨t, hexec⟩
  · exact ⟨s, exec_of_busy i hidle⟩

/-- Settles O13: both in IDLE, with a well-formed offer at hand, and outside it, the step looks at the flag. -/
theorem interleavedWindowIsAFault : Obligations.InterleavedWindowIsAFault := by
  intro s hreset hforeign
  constructor
  · intro hbusy
    simp [step, hreset, hbusy, stepBusy, hforeign]
  · intro o rest i hidle hinbox hdecode hwf
    simp [step, hreset, hidle, stepIdle, hinbox, hdecode, hwf, hforeign]

/-- Settles O56: the step keeps the bus invariant, under which chip-select is deasserted in a phase without a window. -/
theorem chipSelectIsDeassertedOnEveryExit : Obligations.ChipSelectIsDeassertedOnEveryExit := by
  intro s t hs h hexit
  have ht : Inv t := stepKeepsTheBusInvariant s t hs h
  rcases hexit with hphase | hphase | hphase <;>
    exact ht.cs_of_windowless (by rw [hphase]; rfl) (by rw [hphase]; rfl)

/-! ## One response -/

/-- From `s` to `t` bus and time events only are made. -/
def Active (s t : State) : Prop := ∃ acts, (∀ e ∈ acts, Event.isActivity e = true) ∧ t.trace = s.trace ++ acts

theorem Active.quiet {s t : State} (h : t.trace = s.trace) : Active s t := ⟨[], by simp, by simpa using h⟩

theorem Active.event {s t : State} (e : Event) (he : e.isActivity = true) (h : t.trace = s.trace ++ [e]) :
    Active s t := ⟨[e], by simpa using he, h⟩

theorem tickValidate_active {s t : State} (h : tickValidate s = some t) : Active s t := by
  rcases tickValidate_quiet h with ⟨htrace, -⟩ | ⟨htrace, -⟩
  · exact .quiet htrace
  · exact .event (.select false) rfl htrace

theorem openWindow_active {s t : State} (h : openWindow s = some t) : Active s t := by
  unfold openWindow at h
  split at h <;> cases h
  exact .event (.select true) rfl rfl

theorem tickWindow_active {s t : State} (h : tickWindow s = some t) : Active s t := by
  unfold tickWindow at h
  split at h
  case h_1 tx _ _ =>
    split at h
    · cases h
    · dsimp only at h
      split at h <;> cases h <;> exact .event (.transfer tx _) rfl rfl
  case h_2 => cases h; exact .event (.select false) rfl rfl
  case h_3 =>
    obtain ⟨htrace, -⟩ := absorb_quiet h
    exact .event (.select false) rfl htrace
  case h_4 => cases h

theorem tickFrame_active {s t : State} (h : tickFrame s = some t) : Active s t := by
  unfold tickFrame at h
  split at h
  · exact openWindow_active h
  · exact tickWindow_active h

theorem tickWait_active {s t : State} (h : tickWait s = some t) : Active s t := by
  unfold tickWait at h
  split at h
  case h_1 =>
    split at h <;> cases h
    exact .event (.millis _) rfl rfl
  case h_2 => exact openWindow_active h
  case h_3 =>
    split at h
    · cases h
    · dsimp only at h
      split at h <;> cases h <;> exact .event (.millis _) rfl rfl
  case h_4 => cases h; exact .event (.sleep _) rfl rfl
  case h_5 => exact tickWindow_active h

/-- An event after which the operation is still in progress is a bus or time event. -/
theorem tick_active {s t : State} (h : tick s = some t) (hbusy : t.phase ≠ .idle) : Active s t := by
  cases hphase : s.phase <;> simp only [tick, hphase] at h
  case idle => cases h
  case validate => exact tickValidate_active h
  case split =>
    cases h
    obtain ⟨htrace, -⟩ := tickSplit_quiet s
    exact .quiet htrace
  case waitReady | waitComplete => exact tickWait_active h
  case writeEnable | commandIssue | idRead | uidRead => exact tickFrame_active h
  case done | failed => cases h; exact absurd rfl hbusy

/-- A cause is there exactly in FAILED. -/
def CauseIffFailed (s : State) : Prop := s.cause ≠ .none ↔ s.phase = .failed

theorem causeIffFailed_raise {c : Cause} (s : State) (hc : c ≠ .none) : CauseIffFailed (raise c s) :=
  ⟨fun _ => rfl, fun _ => hc⟩

/-- FAILED is left by the response alone. -/
theorem ne_failed_of_tick {s t : State} (h : tick s = some t) (hbusy : t.phase ≠ .idle) : s.phase ≠ .failed := by
  intro hphase
  simp only [tick, hphase] at h
  cases h
  exact hbusy rfl

/-- While the operation goes on, a cause is there exactly in FAILED. -/
theorem tick_causeIffFailed {s t : State} (hs : CauseIffFailed s) (h : tick s = some t) (hbusy : t.phase ≠ .idle) :
    CauseIffFailed t := by
  have hne : s.phase ≠ .failed := ne_failed_of_tick h hbusy
  cases tick_cause h with
  | goesOn hgoes =>
    obtain ⟨hcause, hphase, -⟩ := hgoes
    rw [CauseIffFailed, hcause]
    exact ⟨fun hc => absurd (hs.1 hc) hne, fun hf => absurd hf hphase⟩
  | invalid hvalid => exact causeIffFailed_raise s (validate_ne_none hvalid)
  | late | faulted | mismatch => exact causeIffFailed_raise _ nofun
  | respondedOk | respondedError => exact absurd rfl hbusy

/-- What an operation has added to the trace `start`: bus and time events, and, once it has ended, the one response to
its cause (60_exceptions.md R230). -/
inductive Progress (start : List Event) (s : State) : Prop
  | underway {acts : List Event} (hbusy : s.phase ≠ .idle) (hcause : CauseIffFailed s)
      (hacts : ∀ e ∈ acts, Event.isActivity e = true) (htrace : s.trace = start ++ acts)
  | ended {acts : List Event} {r : Response} (hidle : s.phase = .idle) (hcause : r.cause = s.cause)
      (hresult : r.result = .ok ↔ r.cause = .none) (hacts : ∀ e ∈ acts, Event.isActivity e = true)
      (htrace : s.trace = start ++ (acts ++ [.respond r]))

/-- An event that ends the operation is its response: Ok from DONE, where no cause is there, Error from FAILED. -/
theorem exists_response {s t : State} (hs : CauseIffFailed s) (h : tick s = some t) (hidle : t.phase = .idle) :
    ∃ r : Response, r.cause = t.cause ∧ (r.result = .ok ↔ r.cause = .none) ∧ t.trace = s.trace ++ [.respond r] := by
  cases tick_cause h with
  | respondedOk hphase =>
    have hnone : s.cause = .none := by
      by_contra hc
      rw [hs.1 hc] at hphase
      cases hphase
    exact ⟨_, hnone.symm, ⟨fun _ => rfl, fun _ => rfl⟩, respondOk_trace s⟩
  | respondedError hphase =>
    exact ⟨⟨.error, s.cause, [], []⟩, rfl, ⟨nofun, fun hc => absurd hc (hs.2 hphase)⟩, respondError_trace s⟩
  | goesOn hgoes =>
    obtain ⟨-, -, hbusy⟩ := hgoes
    exact absurd hidle hbusy
  | _ => cases hidle

/-- One event keeps the account. -/
theorem tick_progress {start : List Event} {s t : State} (hs : Progress start s) (h : tick s = some t) :
    Progress start t := by
  cases hs with
  | ended hidle => simp [tick, hidle] at h
  | @underway acts hbusy hcause hacts htrace =>
    by_cases hidle : t.phase = .idle
    · obtain ⟨r, hrcause, hresult, hlast⟩ := exists_response hcause h hidle
      exact .ended hidle hrcause hresult hacts (by rw [hlast, htrace, List.append_assoc])
    · obtain ⟨new, hnew, hlast⟩ := tick_active h hidle
      exact .underway hidle (tick_causeIffFailed hcause h hidle) (List.forall_mem_append.2 ⟨hacts, hnew⟩)
        (by rw [hlast, htrace, List.append_assoc])

/-- Acceptance adds its one event. -/
theorem begun_trace (i : Instr) (s : State) : (begun i s).trace = s.trace ++ [acceptance s.cfg i] := by
  unfold begun acceptance
  cases requestOf s.cfg i <;> rfl

theorem begun_ne_failed (i : Instr) (s : State) : (begun i s).phase ≠ .failed := by
  rcases begun_cases i s with ⟨r, -, h⟩ | h <;> rw [h]
  · nofun
  · rw [acceptFrame_phase, framePhase]
    split <;> nofun

/-- After acceptance no cause is there. -/
theorem begun_causeIffFailed (i : Instr) (s : State) : CauseIffFailed (begun i s) := by
  have hne := begun_ne_failed i s
  have hcause : (begun i s).cause = .none := (begun_causeInv i s).busy hne (begun_ne_idle i s)
  exact ⟨fun hc => absurd hcause hc, fun hf => absurd hf hne⟩

theorem begun_progress (i : Instr) (s : State) : Progress (s.trace ++ [acceptance s.cfg i]) (begun i s) :=
  .underway (acts := []) (begun_ne_idle i s) (begun_causeIffFailed i s) nofun (by rw [begun_trace, List.append_nil])

/-- Settles O47: the phase machine, from acceptance to where it rests, keeps the account of what the operation made. -/
theorem oneResponsePerOperation : Obligations.OneResponsePerOperation := by
  intro i s hidle
  obtain ⟨-, t, hexec, -, hrest⟩ := exec_eq_ticks i hidle
  cases exec_induct (fun _ _ => tick_progress) hidle (begun_progress i s) hexec with
  | @underway acts hbusy _ hacts htrace => exact ⟨t, acts, hexec, hacts, .inr ⟨hbusy, hrest, by simp [htrace]⟩⟩
  | @ended acts r hidle' hcause hresult hacts htrace =>
    exact ⟨t, acts, hexec, hacts, .inl ⟨hidle', r, hcause, hresult, by simp [htrace]⟩⟩

/-! ## A poll that faults -/

/-- From the acceptance to WAIT_READY an operation sets its cursor (rows 5 to 8 and 10 of 41_sequencer.md R164); all
else is as it was. -/
inductive Prepared (s : State) : State → Prop
  | mk (addr len rem off : U32) (phase : Phase) (pos : Pos) :
    Prepared s { s with addr := addr, len := len, rem := rem, off := off, phase := phase, pos := pos }

/-- With its checks passed, the meaning of the request `i` with the record `r` begins with WAIT_READY, and ends there
if that fails (R157, R158, R163). -/
def WaitsFirst (s : State) (i : Instr) (r : Request) : Prop :=
  requestOf s.cfg i = some r ∧ ∃ body, exec i s = serve r body s ∧
    (validate (accept r s) = none → ∃ u, Prepared (accept r s) u ∧
      ∀ c v, waitReady u = .err c v → body (accept r s) = .err c v)

theorem readBody_waitReady_err {hdr : State → List Byte} {s v : State} {c : Cause}
    (h : waitReady (loadAddrLen s) = .err c v) : readBody hdr s = .err c v := by
  rw [readBody, h, andThen_err]

theorem programPhases_waitReady_err {payload : State → List Byte} {s v : State} {c : Cause}
    (h : waitReady s = .err c v) : programPhases payload s = .err c v := by
  rw [programPhases, h, andThen_err]

theorem erasePhases_waitReady_err {tx : State → List Byte} {s v : State} {c : Cause}
    (h : waitReady s = .err c v) : erasePhases tx s = .err c v := by
  rw [erasePhases, h, andThen_err]

theorem splitLoop_waitReady_err {bound : Nat} {s v : State} {c : Cause} (hrem : s.rem ≠ 0)
    (h : waitReady (nextChunk s) = .err c v) : splitLoop (bound + 1) s = .err c v := by
  rw [splitLoop, if_neg hrem, programPhases_waitReady_err h, andThen_err]

/-- The requests with a wait, each with its code. -/
theorem waitsFirst_of_mem {s : State} {q : Args} {i : Instr} {op : BitVec 4}
    (h : (i, op) ∈ [(Instr.reqRead q, (0x1 : BitVec 4)), (Instr.reqFread q, 0x2), (Instr.reqWpage q, 0x3),
      (Instr.reqWrite q, 0x4), (Instr.reqEsect q, 0x5), (Instr.reqEb32 q, 0x6), (Instr.reqEb64 q, 0x7),
      (Instr.reqEchip q, 0x8)]) : WaitsFirst s i (mkRequest op q) := by
  simp only [List.mem_cons, List.not_mem_nil, or_false, Prod.mk.injEq] at h
  rcases h with ⟨rfl, rfl⟩ | ⟨rfl, rfl⟩ | ⟨rfl, rfl⟩ | ⟨rfl, rfl⟩ | ⟨rfl, rfl⟩ | ⟨rfl, rfl⟩ | ⟨rfl, rfl⟩ | ⟨rfl, rfl⟩
  case inl | inr.inl =>
    exact ⟨rfl, _, rfl, fun _ => ⟨_, ⟨_, _, _, _, _, _⟩, fun _ _ => readBody_waitReady_err⟩⟩
  case inr.inr.inl =>
    exact ⟨rfl, _, rfl, fun _ => ⟨_, ⟨_, _, _, _, _, _⟩, fun _ _ => programPhases_waitReady_err⟩⟩
  case inr.inr.inr.inl =>
    exact ⟨rfl, _, rfl, fun hvalid => ⟨_, ⟨_, _, _, _, _, _⟩, fun _ _ =>
      splitLoop_waitReady_err (beginSplit_rem_ne_zero rfl hvalid)⟩⟩
  all_goals
    exact ⟨rfl, _, rfl, fun _ => ⟨_, ⟨_, _, _, _, _, _⟩, fun _ _ => erasePhases_waitReady_err⟩⟩

/-- Settles O42: WAIT_READY fails along the script that ends in a fault, and the abort there adds nothing unknown. -/
theorem pollFaultIsTransportFault : Obligations.PollFaultIsTransportFault := by
  intro s q op i t0 busy xs ms hrow hidle hcause hbusy hxfers hmillis
  obtain ⟨hr, body, hexec, hwaits⟩ := waitsFirst_of_mem hrow
  have hvalid : validate (accept (mkRequest op q) s) = none := (validate_accept hr).trans hcause
  obtain ⟨u, ⟨addr, len, rem, off, phase, pos⟩, hbody⟩ := hwaits hvalid
  have hfails : FailedWait.Fails s.cfg.tReadyMs ⟨t0, busy, .fault⟩ := ⟨hbusy, trivial⟩
  obtain ⟨sr, hwait⟩ := waitReady_failed (w := ⟨t0, busy, .fault⟩) (xs := xs) (ms := ms)
    (s := { accept (mkRequest op q) s with
      addr := addr, len := len, rem := rem, off := off, phase := phase, pos := pos })
    hfails (by simp [hxfers, FailedWait.answers]) (by simp [hmillis, FailedWait.readings])
  refine ⟨_, hexec.trans (serve_failed hidle hvalid (hbody _ _ hwait)), by simp, by simp, by simp [FailedWait.cause],
    by simp, by simp, by simp [reachNow], by simp [SameHandle], by simp [SameOutside], ?_⟩
  simp [FailedWait.events, FailedWait.cause, faultEvents, errorResponse, frameRDSR, fill]

end Sys2Proof.Machine

/-! # Reset and hazards

The family of 70_reset_and_hazards.md: the state after reset (R260), reset in any phase (R261), and the Write Enable
window before every window that changes the flash (R263 (b)). -/

namespace Sys2Proof.Machine

/-! ## Reset -/

/-- With the reset line asserted the step is the reset, whatever is in progress. -/
theorem step_of_resetLine {s : State} (h : s.resetLine = true) : step s = .next (hardReset s) := by
  rw [step, if_pos h]

/-- Settles O18: the fields of `State.reset`. -/
theorem resetStateIsAsStated : Obligations.ResetStateIsAsStated := ⟨rfl, rfl, rfl, rfl, rfl, rfl, rfl⟩

/-- Settles O19: the step is the reset, which takes over the configuration and the offers. -/
theorem resetAbandonsTheOperation : Obligations.ResetAbandonsTheOperation := fun s h =>
  ⟨hardReset s, step_of_resetLine h, rfl, rfl, rfl, rfl, rfl, rfl, rfl, rfl, rfl, rfl, rfl, rfl⟩

/-- Settles O55: the one event of reset is a `Select(false)`, and no window is open. -/
theorem resetMeetsTheBusInvariant : Obligations.ResetMeetsTheBusInvariant := ⟨rfl, rfl, rfl, fun _ => rfl⟩

/-- Settles O58: reset is in IDLE, where nothing is asked of the registers. -/
theorem resetMeetsTheRegisterInvariant : Obligations.ResetMeetsTheRegisterInvariant := regInv_of_not_running nofun rfl

/-! ## What one event does to the windows -/

/-- Unless received bytes are absorbed, an event in or of a window keeps the phase, or aborts. -/
theorem tickWindow_phase {s t : State} (hpos : ∀ rx, s.pos ≠ .closing (some rx)) (h : tickWindow s = some t) :
    t.phase = s.phase ∨ t.phase = .failed := by
  unfold tickWindow at h
  split at h
  case h_1 =>
    split at h
    · cases h
    · dsimp only at h
      split at h <;> cases h <;> exact .inl rfl
  case h_2 => cases h; exact .inr rfl
  case h_3 rx hclosing => exact absurd hclosing (hpos rx)
  case h_4 => cases h

theorem openWindow_phase {s t : State} (h : openWindow s = some t) : t.phase = s.phase := by
  unfold openWindow at h
  split at h <;> cases h
  rfl

theorem tickFrame_phase {s t : State} (hpos : ∀ rx, s.pos ≠ .closing (some rx)) (h : tickFrame s = some t) :
    t.phase = s.phase ∨ t.phase = .failed := by
  unfold tickFrame at h
  split at h
  · exact .inl (openWindow_phase h)
  · exact tickWindow_phase hpos h

theorem tickWait_phase {s t : State} (hpos : ∀ rx, s.pos ≠ .closing (some rx)) (h : tickWait s = some t) :
    t.phase = s.phase ∨ t.phase = .failed := by
  unfold tickWait at h
  split at h
  case h_1 => split at h <;> cases h; exact .inl rfl
  case h_2 => exact .inl (openWindow_phase h)
  case h_3 =>
    split at h
    · cases h
    · dsimp only at h
      split at h <;> cases h
      · exact .inr rfl
      · exact .inl rfl
  case h_4 => cases h; exact .inl rfl
  case h_5 => exact tickWindow_phase hpos h

theorem tickValidate_ne_commandIssue {s t : State} (h : tickValidate s = some t) : t.phase ≠ .commandIssue := by
  unfold tickValidate at h
  split at h
  · cases h; nofun
  · unfold afterValidate at h
    split at h <;> cases h <;> nofun

theorem tickSplit_ne_commandIssue (s : State) : (tickSplit s).phase ≠ .commandIssue := by
  unfold tickSplit
  split <;> nofun

/-- COMMAND_ISSUE is entered only by the bytes of a window that closes. -/
theorem commandIssue_of_tick {s t : State} (hpos : ∀ rx, s.pos ≠ .closing (some rx)) (h : tick s = some t)
    (ht : t.phase = .commandIssue) : s.phase = .commandIssue := by
  have hkept : t.phase = s.phase ∨ t.phase = .failed → s.phase = .commandIssue := by
    rintro (hsame | hfailed)
    · exact hsame.symm.trans ht
    · rw [ht] at hfailed; cases hfailed
  cases hphase : s.phase <;> simp only [tick, hphase] at h
  case idle => cases h
  case validate => exact absurd ht (tickValidate_ne_commandIssue h)
  case split => cases h; exact absurd ht (tickSplit_ne_commandIssue s)
  case waitReady | waitComplete => exact hphase ▸ hkept (tickWait_phase hpos h)
  case writeEnable | commandIssue | idRead | uidRead => exact hphase ▸ hkept (tickFrame_phase hpos h)
  case done | failed => cases h; cases ht

/-- What one event does to the complete windows after `past`: it adds none, and then does not enter COMMAND_ISSUE, or
it closes the phase's window, whose received bytes are absorbed. -/
inductive WindowStep (past : List Event) (s t : State) : Prop
  | beside {es : List Event} (hat : WindowAt (past ++ es) t) (hsealed : Sealed es) (hnone : windows es = [])
      (hphase : t.phase = .commandIssue → s.phase = .commandIssue)
  | closes {es : List Event} {rx : List Byte} (hat : WindowAt (past ++ es) t) (hsealed : Sealed es)
      (hone : windows es = [(phaseParts s).flatten]) (habsorb : absorb rx (s.select false) = some t)

theorem tick_windowStep {past : List Event} {s t : State} (hs : WindowAt past s) (h : tick s = some t) :
    WindowStep past s t := by
  cases hs with
  | closed hpos htrace =>
    have hphase := commandIssue_of_tick (fun rx hclosing => by rw [hclosing] at hpos; cases hpos) h
    rcases tick_closed hpos h with ⟨hpos', hsame | ⟨e, he, hone⟩⟩ | hopen
    · exact .beside (es := []) (.closed hpos' (by rw [hsame, htrace, List.append_nil])) sealed_nil windows_nil hphase
    · obtain ⟨hsealed, hnone⟩ := windows_aside he
      exact .beside (.closed hpos' (by rw [hone, htrace])) hsealed hnone hphase
    · exact .beside (es := []) (by simpa [htrace] using openWindow_windowAt hopen) sealed_nil windows_nil hphase
  | sending hpos hparts hfit htrace =>
    have hphase := commandIssue_of_tick (by simp [hpos]) h
    rw [tick_window (windowed_of_phaseParts (by simp [hparts])) (by rw [hpos]; rfl)] at h
    exact .beside (es := []) (by simpa using tickWindow_sending hpos hparts hfit htrace h) sealed_nil windows_nil hphase
  | @complete rxs rx hpos hparts hfit htrace =>
    rw [tick_window (windowed_of_phaseParts hparts) (by rw [hpos]; rfl)] at h
    simp only [tickWindow, hpos] at h
    obtain ⟨hsame, -, -, hplace⟩ := absorb_quiet h
    obtain ⟨hsealed, hone⟩ := windows_windowEvents hfit
    refine .closes (.closed ?_ ?_) hsealed hone h
    · rcases hplace with hplace | ⟨hplace, -⟩ <;> rw [hplace] <;> rfl
    · rw [hsame, select_trace, htrace]
      simp [windowEvents, answered]
  | @faulted sent later rxs tx hpos hparts hfit htrace =>
    have hphase := commandIssue_of_tick (by simp [hpos]) h
    rw [tick_window (windowed_of_phaseParts (by simp [hparts])) (by rw [hpos]; rfl)] at h
    simp only [tickWindow, hpos] at h
    cases h
    obtain ⟨hsealed, hnone⟩ := windows_fault hfit tx
    exact .beside (.closed rfl (by simp [htrace])) hsealed hnone hphase

/-! ## The phases around a Write Enable -/

/-- From its waits a program or an erase does not go to COMMAND_ISSUE (41_sequencer.md R157). -/
theorem afterWait_ne_commandIssue {s t : State} (h : afterWait s = some t)
    (hop : changesArray (opOfCode s.req.op) = true) : t.phase ≠ .commandIssue := by
  unfold afterWait at h
  split at h
  case h_1 hread | h_2 hread => rw [hread] at hop; cases hop
  case h_15 => cases h
  all_goals cases h; nofun

theorem afterCommand_ne_commandIssue {rx : List Byte} {s t : State} (h : afterCommand rx s = some t) :
    t.phase ≠ .commandIssue := by
  unfold afterCommand at h
  split at h
  · cases h; nofun
  · split at h <;> cases h <;> nofun

theorem afterUid_ne_commandIssue {ru : List Byte} {s t : State} (h : afterUid ru s = some t) :
    t.phase ≠ .commandIssue := by
  unfold afterUid at h
  split at h <;> cases h <;> nofun

/-- A program or an erase enters COMMAND_ISSUE by the bytes of its Write Enable window (R157, R159). -/
theorem writeEnable_of_absorb {rx : List Byte} {s t : State} (h : absorb rx s = some t)
    (ht : t.phase = .commandIssue) (hop : changesArray (opOfCode s.req.op) = true) : s.phase = .writeEnable := by
  cases hphase : s.phase
  case waitReady | waitComplete =>
    rw [absorb_wait rx (by rw [hphase]; rfl)] at h
    split at h
    · cases h; cases hphase.symm.trans ht
    · exact absurd ht (afterWait_ne_commandIssue h hop)
  all_goals simp only [absorb, hphase] at h
  case writeEnable => rfl
  case commandIssue => exact absurd ht (afterCommand_ne_commandIssue h)
  case idRead => split at h <;> cases h <;> cases ht
  case uidRead => exact absurd ht (afterUid_ne_commandIssue h)
  all_goals cases h

/-- In a request, a window that programs or erases is the command window of a program or an erase (R160). -/
theorem command_of_changingWindow {s : State} {op : Byte} {rest : List Byte} (hjob : s.job = none)
    (hbytes : (phaseParts s).flatten = op :: rest) (hop : isChangingOpcode op = true) :
    s.phase = .commandIssue ∧ changesArray (opOfCode s.req.op) = true := by
  cases hphase : s.phase <;> simp only [phaseParts, hphase, hjob] at hbytes
  case commandIssue =>
    refine ⟨rfl, ?_⟩
    cases hcode : opOfCode s.req.op <;> simp only [commandParts, hcode] at hbytes
    case read | fread => cases hbytes; cases hop
    case init | info | reserved => cases hbytes
    all_goals rfl
  case waitReady | waitComplete | writeEnable | idRead | uidRead => cases hbytes; cases hop
  all_goals cases hbytes

/-! ## The windows of a request -/

/-- Just before every window that programs or erases there is a Write Enable window. -/
def ChangesEnabled (ws : List (List Byte)) : Prop :=
  ∀ before after op rest, ws = before ++ (op :: rest) :: after → isChangingOpcode op = true →
    ∃ earlier, before = earlier ++ [[0x06]]

theorem changesEnabled_nil : ChangesEnabled [] := by
  intro before after op rest h
  simp at h

/-- One more window, which if it programs or erases comes after a Write Enable window. -/
theorem ChangesEnabled.concat {ws : List (List Byte)} {w : List Byte} (h : ChangesEnabled ws)
    (hw : ∀ op rest, w = op :: rest → isChangingOpcode op = true → ∃ earlier, ws = earlier ++ [[0x06]]) :
    ChangesEnabled (ws ++ [w]) := by
  intro before after op rest hsplit hop
  rcases List.eq_nil_or_concat after with rfl | ⟨init, last, rfl⟩
  · obtain ⟨rfl, hlast⟩ := List.append_inj' hsplit rfl
    exact hw op rest (List.head_eq_of_cons_eq hlast) hop
  · rw [List.concat_eq_append, ← List.cons_append, ← List.append_assoc] at hsplit
    exact h before init op rest (List.append_inj_left' hsplit rfl) hop

/-- Along a request that begins after `start`: in every complete window so far a program or an erase was enabled, and
in COMMAND_ISSUE of one the Write Enable window is the last. -/
structure EnablesChanges (start : List Event) (s : State) : Prop where
  job : s.job = none
  past : ∃ past, WindowAt (start ++ past) s ∧ Sealed past ∧ ChangesEnabled (windows past) ∧
    (s.phase = .commandIssue → changesArray (opOfCode s.req.op) = true →
      ∃ earlier, windows past = earlier ++ [[0x06]])

theorem tick_enablesChanges {start : List Event} {s t : State} (hs : EnablesChanges start s) (h : tick s = some t) :
    EnablesChanges start t := by
  obtain ⟨hjob, past, hat, hsealed, henabled, hready⟩ := hs
  obtain ⟨hreq, hjob'⟩ := tick_keepsRequest h
  cases tick_windowStep hat h with
  | @beside es hat' hsealed' hnone hphase =>
    have hsame : windows (past ++ es) = windows past := by rw [hsealed es, hnone, List.append_nil]
    refine ⟨hjob' hjob, past ++ es, by rwa [← List.append_assoc], hsealed.append hsealed', ?_, ?_⟩ <;> rw [hsame]
    · exact henabled
    · rw [hreq]; exact fun ht => hready (hphase ht)
  | @closes es rx hat' hsealed' hone habsorb =>
    have hmore : windows (past ++ es) = windows past ++ [(phaseParts s).flatten] := by rw [hsealed es, hone]
    refine ⟨hjob' hjob, past ++ es, by rwa [← List.append_assoc], hsealed.append hsealed', ?_, ?_⟩ <;> rw [hmore]
    · refine henabled.concat fun op rest hbytes hop => ?_
      obtain ⟨hphase, hchange⟩ := command_of_changingWindow hjob hbytes hop
      exact hready hphase hchange
    · rw [hreq]
      intro ht hchange
      have hphase : s.phase = .writeEnable := writeEnable_of_absorb (s := s.select false) habsorb ht hchange
      exact ⟨windows past, by simp [phaseParts, hphase, frameWREN]⟩

theorem begun_enablesChanges {i : Instr} (s : State) (hi : isRequest i = true) :
    EnablesChanges s.trace (begun i s) := by
  have hreq : ∃ r, begun i s = accept r s := by cases i <;> cases hi <;> exact ⟨_, rfl⟩
  obtain ⟨r, hr⟩ := hreq
  obtain ⟨hsealed, hnone⟩ := windows_aside (e := .accept r) rfl
  rw [hr]
  exact ⟨rfl, [.accept r], .closed rfl rfl, hsealed, by rw [hnone]; exact changesEnabled_nil, nofun⟩

/-- The complete windows of a run are those of the past its open window comes after. -/
theorem WindowAt.windows_eq {start past new : List Event} {s : State} (hat : WindowAt (start ++ past) s)
    (hsealed : Sealed past) (htrace : s.trace = start ++ new) : windows new = windows past := by
  obtain ⟨part, hpart, hnone⟩ := hat.part
  rw [htrace, List.append_assoc] at hpart
  rw [List.append_cancel_left hpart, hsealed, hnone, List.append_nil]

/-- Settles O53: every event of the phase machine keeps that changes are enabled, from the acceptance on. -/
theorem writeEnablePrecedesEveryChange : Obligations.WriteEnablePrecedesEveryChange := by
  intro i s t new before after op rest hi hidle h htrace hsplit hop
  obtain ⟨-, past, hat, hsealed, henabled, -⟩ :=
    exec_induct (fun _ _ => tick_enablesChanges) hidle (begun_enablesChanges s hi) h
  exact henabled before after op rest ((hat.windows_eq hsealed htrace).symm.trans hsplit) hop

end Sys2Proof.Machine
